-- ==== Sys2Proof/Word.lean ====
section
/-! DEFINITION. The bit-vector types of the block: byte, 32-bit word, 17-bit length, 104-bit operation word (R11, R20, R108). -/

namespace Sys2Proof

/-- A byte, 8 bits (R11). -/
abbrev Byte := BitVec 8

/-- A word, 32 bits (R11). An `int32` of the spec is a word read through `s32`, which is `BitVec.toInt`. -/
abbrev Word := BitVec 32

/-- A byte offset or count of 17 bits (R20: `STROFF`, `STRLEN`, the `LEN` of a relay store). -/
abbrev Len := BitVec 17

/-- An operation word of the command port (R108). -/
abbrev OpWord := BitVec 104

end Sys2Proof
end

