-- ==== Sys2Proof/Config.lean ====
section
/-! DEFINITION. The fixed parameters of the block (R9) and the free values the spec calls "any value" (R15). -/

namespace Sys2Proof

/-- Bytes in the frame buffer (R9). -/
def Config.fbCap : Nat := 65536
/-- Largest `numberOfPoints` the parser accepts (R9). -/
def Config.maxPoints : Nat := 4000
/-- Largest `numberOfEchoes` the parser accepts (R9). -/
def Config.maxEchoes : Nat := 4
/-- Scan parameters kept (R9). -/
def Config.maxParams : Nat := 10
/-- Raw frames the relay accumulator holds (R9). -/
def Config.maxSlots : Nat := 10
/-- Bytes of command ID plus Length (R9). -/
def Config.hdrLen : Nat := 8
/-- Bytes of the CRC trailer (R9). -/
def Config.crcLen : Nat := 4
/-- Bytes of a plain scan-request frame (R9). -/
def Config.gscnReqLen : Nat := 16
/-- The generator polynomial in normal form (R9, R130). -/
def Config.crcPoly : Word := 0x04C11DB7#32
/-- Its bit reversal, the constant of the table construction (R132). -/
def Config.crcPolyReflected : Word := 0xEDB88320#32
/-- Initial remainder (R9). -/
def Config.crcInit : Word := 0xFFFFFFFF#32
/-- Final XOR (R9). -/
def Config.crcXorOut : Word := 0xFFFFFFFF#32
/-- Distance sentinel "no echo" (R9). -/
def Config.noEcho : Word := 0x80000000#32
/-- Distance sentinel "noise" (R9). -/
def Config.noise : Word := 0x7FFFFFFF#32
/-- Data-content code DISTANCES_ONLY (R9). -/
def Config.dcDist : Word := 4#32
/-- Data-content code DISTANCES_PW (R9). -/
def Config.dcDistPw : Word := 8#32
/-- Data-content code DISTANCES_PW_WITH_ECHO (R9). -/
def Config.dcDistPwEcho : Word := 7#32

/-- The free 32-bit value of a draw: `CRC.R` wherever the spec says "any value" (R25, R135, R137; log entries 6 and 7). -/
opaque Config.anyWord : Nat → Word

/-- The free byte at an address of a store nothing has written since the draw (R27, R34, R35; log entries 8 and 9).
First argument the draw, second the address. -/
opaque Config.anyByte : Nat → Nat → Byte

/-- The free `LEN` of a relay slot after reset (R34; log entry 9). -/
opaque Config.anyLen : Nat → Len

/-- The type of `ERRCODE` (R10): an injective map from the 21 error kinds to negative `int32` values. Index `k` holds the code
of the kind whose status code is `k + 1`. -/
abbrev ErrCodes : Type :=
  { v : Vector Word 21 // (∀ k : Fin 21, (v[k]).toInt < 0) ∧ ∀ j k : Fin 21, v[j] = v[k] → j = k }

/-- The protocol's literal error codes (R214), withheld by the source and without a default (R10; log entry 5): free among the
maps that R10 allows. -/
opaque Config.errCodes [Inhabited ErrCodes] : ErrCodes

/-- That the type of `ERRCODE` has a member, which Lean asks of a constant without a body. Nothing in Lean can evaluate
`Config.errCodes` to this or to any other map. -/
abbrev ErrCodes.inhabited : Inhabited ErrCodes :=
  ⟨⟨Vector.ofFn fun k => BitVec.ofInt 32 (-((k.val : Int) + 1)), by decide +kernel⟩⟩

end Sys2Proof
end

