-- ==== Sys2Proof/Syntax.lean ====
section
/-! DEFINITION. The instructions: one constructor per row of spec/opcode_table.json (R110, R92), the frame tags, the command
classes, and the requests a host can make of the block. -/

namespace Sys2Proof

/-- The eight frame tags (R92). -/
inductive Tag where
  | gver | gprm | sprm | gpin | scan | gscn | gsc2 | err
  deriving DecidableEq, Repr

/-- The seven command classes of `CSM.CLS` (R28); `None` is the absence of one. -/
inductive CmdClass where
  | gver | gprm | sprm | gpin | scan | gscn | gsc2
  deriving DecidableEq, Repr

/-- One row of the opcode table. The 36 operations carry the operand fields their format uses (R108 to R110); the eight
`tag…` rows are wire frames (R91) and carry the Length field, the payload bytes and the CRC trailer. -/
inductive Instr where
  | sysNop
  | crcReset
  | crcUpdate (off len : Word)
  | crcFinal
  | crcCompute (off len : Word)
  | bufRd (off : Word)
  | bufWr (off b : Word)
  | frmGet32 (off : Word)
  | frmPut32 (off v : Word)
  | frmStamp (total : Word)
  | frmVerify (total : Word)
  | frmH2n (total : Word)
  | frmN2h (total : Word)
  | cmdGver
  | cmdGprm (id : Word)
  | cmdSprm (id value : Word)
  | cmdGpin (id : Word)
  | cmdScan (w : Word)
  | cmdGscn (scanNumber : Word)
  | cmdGsc2 (n m : Word)
  | cmdTxdone (w : Word)
  | cmdRxdone (r : Word)
  | cmdRdout (sel : Word)
  | cmdErrmap (c : Word)
  | scnParse (total : Word)
  | scnClear
  | scnInfo
  | scnGetp (idx : Word)
  | scnGetd (p e : Word)
  | scnGetw (p e : Word)
  | rlyOut (total : Word)
  | rlyIn (total : Word)
  | rlyReset
  | sysReset
  | sysCfg (v : Word)
  | sysRdcfg
  | tagGver (length : Word) (payload : List Byte) (crc : Word)
  | tagGprm (length : Word) (payload : List Byte) (crc : Word)
  | tagSprm (length : Word) (payload : List Byte) (crc : Word)
  | tagGpin (length : Word) (payload : List Byte) (crc : Word)
  | tagScan (length : Word) (payload : List Byte) (crc : Word)
  | tagGscn (length : Word) (payload : List Byte) (crc : Word)
  | tagGsc2 (length : Word) (payload : List Byte) (crc : Word)
  | tagErr (length : Word) (payload : List Byte) (crc : Word)
  deriving DecidableEq, Repr

/-- What the host can do to the block between operations (R8, R36; log entries 1, 2 and 16): present an operation word on the
command port (R108), deliver a received byte string into `FB[0..)` (R113, R210), or assert the hardware reset input (R391). -/
inductive HostRequest where
  | op (w : OpWord)
  | frame (bytes : List Byte)
  | hwReset
  deriving DecidableEq, Repr

end Sys2Proof
end

