-- ==== Sys2Proof/Machine/Bytes.lean ====
section
/-! DEFINITION. Byte-sequence helpers of R12: big-endian and little-endian words in a byte list, the word swap, the tag
strings (R17, R92) and the frame a list of bytes makes with its CRC trailer left to the caller. -/

namespace Sys2Proof.Machine

/-- `be32(v)`: the four bytes of `v`, most significant first (R12). -/
def be32 (v : Word) : List Byte :=
  [BitVec.ofNat 8 (v.toNat / 2 ^ 24), BitVec.ofNat 8 (v.toNat / 2 ^ 16),
   BitVec.ofNat 8 (v.toNat / 2 ^ 8), BitVec.ofNat 8 v.toNat]

/-- `le32(v)`: the four bytes of `v`, least significant first (R12). -/
def le32 (v : Word) : List Byte :=
  [BitVec.ofNat 8 v.toNat, BitVec.ofNat 8 (v.toNat / 2 ^ 8),
   BitVec.ofNat 8 (v.toNat / 2 ^ 16), BitVec.ofNat 8 (v.toNat / 2 ^ 24)]

/-- The word four bytes make in network order, the sum of R12's `BE32`. -/
def wordOf (b0 b1 b2 b3 : Byte) : Word :=
  BitVec.ofNat 32 (2 ^ 24 * b0.toNat + 2 ^ 16 * b1.toNat + 2 ^ 8 * b2.toNat + b3.toNat)

/-- `BE32(S, off)` of a byte list (R12); a byte past the list's end counts as 0, which no caller reads. -/
def beAt (l : List Byte) (off : Nat) : Word :=
  wordOf (l.getD off 0) (l.getD (off + 1) 0) (l.getD (off + 2) 0) (l.getD (off + 3) 0)

/-- `bswap32(v)`: the word with its four bytes in reverse order (R12). -/
def bswap32 (v : Word) : Word :=
  match le32 v with
  | [b0, b1, b2, b3] => wordOf b0 b1 b2 b3
  | _ => v

/-- The byte swap of every whole word of a region, each word independently (R66, R70, R170). -/
def swapWords : List Byte → List Byte
  | b0 :: b1 :: b2 :: b3 :: rest => b3 :: b2 :: b1 :: b0 :: swapWords rest
  | rest => rest

/-- The four ASCII bytes of a tag, in reading order (R17, R92). -/
def tagBytes : Tag → List Byte
  | .gver => [0x47#8, 0x56#8, 0x45#8, 0x52#8]
  | .gprm => [0x47#8, 0x50#8, 0x52#8, 0x4D#8]
  | .sprm => [0x53#8, 0x50#8, 0x52#8, 0x4D#8]
  | .gpin => [0x47#8, 0x50#8, 0x49#8, 0x4E#8]
  | .scan => [0x53#8, 0x43#8, 0x41#8, 0x4E#8]
  | .gscn => [0x47#8, 0x53#8, 0x43#8, 0x4E#8]
  | .gsc2 => [0x47#8, 0x53#8, 0x43#8, 0x32#8]
  | .err => [0x45#8, 0x52#8, 0x52#8, 0x00#8]

/-- The tag of a command class's request (R202 to R208). -/
def classTag : CmdClass → Tag
  | .gver => .gver
  | .gprm => .gprm
  | .sprm => .sprm
  | .gpin => .gpin
  | .scan => .scan
  | .gscn => .gscn
  | .gsc2 => .gsc2

/-- The tag a frame begins with, if it is one of the eight: exact on all four bytes (R106). -/
def tagOf (l : List Byte) : Option Tag :=
  [Tag.gver, .gprm, .sprm, .gpin, .scan, .gscn, .gsc2, .err].find? (fun t => l.take 4 == tagBytes t)

/-- The bytes of a frame with the given fields: ID, Length, Payload, CRC (R91). -/
def frameBytes (t : Tag) (length : Word) (payload : List Byte) (crc : Word) : List Byte :=
  tagBytes t ++ be32 length ++ payload ++ be32 crc

end Sys2Proof.Machine
end

