-- ==== Sys2Proof/Machine/CrcUnit.lean ====
section
/-! DEFINITION. The function the CRC unit computes (R130) and the byte step of its register (R131, R132). -/

namespace Sys2Proof.Machine

/-- One shift of the table construction of R132. -/
def crcShift (c : Word) : Word :=
  if c.getLsbD 0 then (c >>> 1) ^^^ Config.crcPolyReflected else c >>> 1

/-- `CRC.T[i]` (R132), recomputed rather than stored: "A model may store the table or recompute it". -/
def crcTable (i : Byte) : Word :=
  crcShift (crcShift (crcShift (crcShift (crcShift (crcShift (crcShift (crcShift (i.setWidth 32))))))))

/-- One byte of the running CRC (R131). -/
def crcStep (r : Word) (b : Byte) : Word :=
  crcTable ((r ^^^ b.setWidth 32).setWidth 8) ^^^ (r >>> 8)

/-- The running CRC over a byte sequence, in order (R131, R134). -/
def crcFeed (r : Word) (l : List Byte) : Word := l.foldl crcStep r

/-- `CRC32(S)` in the register form of R131. -/
def crc32 (l : List Byte) : Word := crcFeed Config.crcInit l ^^^ Config.crcXorOut

/-- One bit of the most-significant-bit-first register of R130. -/
def crcBit (reg : Word) : Word :=
  if reg.getLsbD 31 then (reg <<< 1) ^^^ Config.crcPoly else reg <<< 1

/-- One byte of the most-significant-bit-first register of R130. -/
def crcByteMsb (reg : Word) (b : Byte) : Word :=
  crcBit (crcBit (crcBit (crcBit (crcBit (crcBit (crcBit (crcBit (reg ^^^ (b.reverse.setWidth 32 <<< 24)))))))))

/-- `CRC32(S)` as R130 writes it out, bit by bit. The operations use `crc32`. -/
def crc32Msb (l : List Byte) : Word :=
  (l.foldl crcByteMsb Config.crcInit).reverse ^^^ Config.crcXorOut

end Sys2Proof.Machine
end

