-- ==== Sys2Proof/Machine/State.lean ====
section
/-! DEFINITION. The state of the block (R20), the reasons a step can stop, and the state after reset (R37). -/

namespace Sys2Proof.Machine

/-- The 22 status kinds, in the order of R350. -/
inductive Status where
  | success
  | systemNotReady
  | environmentalFault
  | outOfOperatingRange
  | sensorUnitFailure
  | serializationVersionMismatch
  | configurationError
  | fatalSystemError
  | bufferOverflow
  | indexOutOfRange
  | divisionByZero
  | invalidHandle
  | unsupportedFunction
  | accessDenied
  | invalidParameter
  | unknownCommand
  | crcError
  | userBreak
  | timeout
  | writeError
  | readError
  | ioError
  deriving DecidableEq, Repr

/-- `CSM.ST` (R28). -/
inductive CsmState where
  | idle
  | sent
  deriving DecidableEq, Repr

/-- A byte store: the frame buffer, a relay slot, the remembered request, the replay frame. `cells` lists the bytes written
since the store's content was last "any value", addresses strictly rising; a byte that is not listed reads as the free value
`Config.anyByte draw address` (R27, R34, R35; log entries 8 and 9). -/
structure Memory where
  draw : Nat
  cells : List Host.Cell
  deriving DecidableEq, Repr

/-- A byte store with a length: `RLY.SLOT[k]`, `RLY.ORIGREQ` (R34, R35). -/
structure Store where
  len : Len
  bytes : Memory
  deriving DecidableEq, Repr

/-- The scan record `SR` (R30). `dist` and `pw` hold sample `(p, e)` at position `p * nech + e`; every entry outside
`p < npts`, `e < nech` is 0 by R32 and is not stored (log entry 14). -/
structure ScanRecord where
  npar : Nat
  param : Vector Word 10
  npts : Nat
  nech : Nat
  dist : List Word
  pw : List Word
  deriving DecidableEq, Repr

/-- The cleared scan record (R32). -/
def ScanRecord.cleared : ScanRecord :=
  { npar := 0, param := Vector.replicate 10 0#32, npts := 0, nech := 0, dist := [], pw := [] }

/-- The relay accumulator `RLY` (R33 to R35). -/
structure Relay where
  active : Bool
  n : Word
  m : Word
  cnt : Nat
  slot : Vector Store 10
  origReq : Store
  lastOut : Memory
  deriving DecidableEq, Repr

/-- The parameters of R10 that are arguments of the model and no state of the block: no operation writes them (log entries 4
and 5). Their types are those of R10, so `errCode` is negative and injective in every state. -/
structure Params where
  rspFirst : Nat
  gscnScanNum : Word
  errCode : ErrCodes
  deriving DecidableEq, Repr

/-- The defaults of R10; `ERRCODE` has none and is free (log entry 5). -/
def Params.default : Params :=
  { rspFirst := 0, gscnScanNum := 0#32, errCode := @Config.errCodes ErrCodes.inhabited }

/-- The complete state: the components of R20, then the model's own three fields. -/
structure State where
  /-- `RES0` (R21). -/
  res0 : Word
  /-- `RES1` (R21). -/
  res1 : Word
  /-- `STATUS` (R22). -/
  status : Status
  /-- `CFG` (R23). -/
  cfg : Word
  /-- `CRC.R` (R25). -/
  crcR : Word
  /-- `FB` (R27). -/
  fb : Memory
  /-- `CSM.ST` (R28). -/
  csmSt : CsmState
  /-- `CSM.CLS` (R28). -/
  csmCls : Option CmdClass
  /-- `CV0` (R29). -/
  cv0 : Word
  /-- `CV1` (R29). -/
  cv1 : Word
  /-- `CV2` (R29). -/
  cv2 : Word
  /-- `STROFF` (R29). -/
  strOff : Len
  /-- `STRLEN` (R29). -/
  strLen : Len
  /-- `SR` (R30). -/
  sr : ScanRecord
  /-- `RLY.*` (R33 to R35). -/
  rly : Relay
  /-- MODEL: the parameters of R10. -/
  params : Params
  /-- MODEL: the host's requests not yet presented, the next one first (R8, R71; log entry 1). -/
  port : List HostRequest
  /-- MODEL: how many free values have been drawn (log entry 10). -/
  draws : Nat
  deriving DecidableEq, Repr

/-- Why the machine stops with a fault. Both are the model's own, safe, and raised in no state a run from reset reaches
(log entry 13). -/
inductive Fault where
  /-- Raised by `RLY.IN` that would store a frame while `RLY.N`, `RLY.M` or `RLY.CNT` is outside the invariant of R33: the
  spec gives no slot and no average there. Safe: the machine stops where the spec gives nothing. -/
  | relayOutOfRange
  /-- Raised by `CMD.RXDONE` that would extract in state `(Sent, None)`, which R200 never enters. Safe, as above. -/
  | sentWithoutClass
  deriving DecidableEq, Repr

/-- Why a step has no successor because the spec says "refuse" (R15, R359; log entry 12), or because the instruction has no
meaning yet. -/
inductive Refusal where
  /-- No meaning for the instruction yet. Raised by no arm of this model. Safe: it stops. -/
  | notModelled (mnemonic : String)
  /-- U1: `FRM.H2N`, `FRM.N2H` with `total < 4` or `(total - 4) mod 4 != 0` (R170). Safe: it stops. -/
  | conversionRegion
  /-- U4: a scan payload the document does not define (R251, R253), raised by `SCN.PARSE` and `CMD.RXDONE`. Safe: it stops. -/
  | scanPayload
  /-- U5: `CMD.RXDONE` on a response too short for its class or not word-sized (R210, R215 to R219). Safe: it stops. -/
  | responseShape
  /-- U6: `RLY.OUT` on a `"GSC2"` frame shorter than 20 bytes (R284). Safe: it stops. -/
  | gsc2TooShort
  /-- U7: `RLY.OUT` on a `"GSC2"` request with `N > 10` (R284). Safe: it stops. -/
  | tooManyScans
  /-- U8: `RLY.IN` completing a cycle whose frames `Average` is not defined on (R294). Safe: it stops. -/
  | averageDomain
  deriving DecidableEq, Repr

/-- What one step answers. -/
abbrev Result := Host.Outcome State Fault Refusal

/-- How many draws one reset takes: `CRC.R` and `FB` share one, then ten slots, `ORIGREQ` and `LASTOUT`. -/
def resetDraws : Nat := 13

/-- The relay accumulator after reset: no cycle, every store "any value" but `RLY.ORIGREQ.LEN` (R37). -/
def Relay.resetAt (d : Nat) : Relay :=
  { active := false
    n := 0#32
    m := 0#32
    cnt := 0
    slot := Vector.ofFn (fun k => { len := Config.anyLen (d + 1 + k.val), bytes := { draw := d + 1 + k.val, cells := [] } })
    origReq := { len := 0#17, bytes := { draw := d + 11, cells := [] } }
    lastOut := { draw := d + 12, cells := [] } }

/-- The state of R37 whose "any value" parts are the draws from `d` on, with the parameters and the host's pending requests
given: reset touches neither (R36). -/
def State.resetAt (d : Nat) (params : Params) (port : List HostRequest) : State :=
  { res0 := 0#32
    res1 := 0#32
    status := .success
    cfg := 0#32
    crcR := Config.anyWord d
    fb := { draw := d, cells := [] }
    csmSt := .idle
    csmCls := none
    cv0 := 0#32
    cv1 := 0#32
    cv2 := 0#32
    strOff := 0#17
    strLen := 0#17
    sr := ScanRecord.cleared
    rly := Relay.resetAt d
    params := params
    port := port
    draws := d + resetDraws }

/-- The machine right after reset (R37, R390), with the default parameters (R10) and no request pending (log entry 1). -/
def State.reset : State := State.resetAt 0 Params.default []

end Sys2Proof.Machine
end

