-- ==== Sys2Proof/Machine/Flags.lean ====
section
/-! DEFINITION. The block's one status flag (R22): the codes of the status kinds (R350) and the mapping of protocol error codes
to kinds (R214). -/

namespace Sys2Proof.Machine

/-- The 22 kinds in the order of R350; the position is the code. -/
def Status.all : List Status :=
  [.success, .systemNotReady, .environmentalFault, .outOfOperatingRange, .sensorUnitFailure,
   .serializationVersionMismatch, .configurationError, .fatalSystemError, .bufferOverflow, .indexOutOfRange,
   .divisionByZero, .invalidHandle, .unsupportedFunction, .accessDenied, .invalidParameter, .unknownCommand,
   .crcError, .userBreak, .timeout, .writeError, .readError, .ioError]

/-- The 8-bit code of a kind (R350). -/
def Status.code : Status → Byte
  | .success => 0
  | .systemNotReady => 1
  | .environmentalFault => 2
  | .outOfOperatingRange => 3
  | .sensorUnitFailure => 4
  | .serializationVersionMismatch => 5
  | .configurationError => 6
  | .fatalSystemError => 7
  | .bufferOverflow => 8
  | .indexOutOfRange => 9
  | .divisionByZero => 10
  | .invalidHandle => 11
  | .unsupportedFunction => 12
  | .accessDenied => 13
  | .invalidParameter => 14
  | .unknownCommand => 15
  | .crcError => 16
  | .userBreak => 17
  | .timeout => 18
  | .writeError => 19
  | .readError => 20
  | .ioError => 21

/-- `ERRCODE[k]` of a kind; `Success` has none (R214, R350). -/
def Params.codeOf (p : Params) (k : Status) : Option Word :=
  if k = .success then none else p.errCode.val[k.code.toNat - 1]?

/-- `ErrMap(c)` (R214): a non-negative code is `Success`, a listed one its kind, any other `InvalidHandle`. -/
def errMap (p : Params) (c : Word) : Status :=
  if 0 ≤ c.toInt then .success
  else ((Status.all.find? (fun k => p.codeOf k == some c)).getD .invalidHandle)

end Sys2Proof.Machine
end

