-- ==== Sys2Proof/Machine/Operands.lean ====
section
/-! DEFINITION. How operations read their operands (R109): offsets, lengths and indexes unsigned, signed operands through
`s32`, the byte operand by its low eight bits; the capacity checks of R61; and the fields of the control register (R23). -/

namespace Sys2Proof.Machine

/-- `s32(w)`: the word read as signed (R11). -/
def s32 (w : Word) : Int := w.toInt

/-- `u32(i)`: the integer modulo `2^32` (R11). -/
def u32 (i : Int) : Word := BitVec.ofInt 32 i

/-- The byte operand of `BUF.WR`: bits 7:0, bits 31:8 ignored (R109, R162). -/
def byteOperand (b : Word) : Byte := b.setWidth 8

/-- An access of `width` bytes at `off` stays inside `FB`; the sum is exact, never reduced (R61). -/
def inBuffer (off width : Nat) : Bool := decide (off + width ≤ Config.fbCap)

/-- The precondition of `FRM.STAMP` and `FRM.VERIFY` (R165). -/
def frameLengthOk (total : Nat) : Bool := decide (4 < total ∧ total ≤ Config.fbCap)

/-- The precondition of `RLY.OUT` and `RLY.IN` (R284, R290). -/
def relayLengthOk (total : Nat) : Bool := decide (4 ≤ total ∧ total ≤ Config.fbCap)

/-- A conversion region is whole words beyond the 4-byte header (R68, R170). -/
def regionOk (total : Nat) : Bool := decide (4 ≤ total ∧ (total - 4) % 4 = 0)

/-- What a write of `CFG` stores: bit 0; bits 31:1 ignore writes (R23, R342). -/
def cfgMask (v : Word) : Word := v &&& 0x00000001#32

/-- `CFG.PWDIV` (R23). -/
def pwdiv (cfg : Word) : Bool := cfg.getLsbD 0

end Sys2Proof.Machine
end

