-- ==== Sys2Proof/Machine/Ops.lean ====
section
/-! DEFINITION. The operations the meanings share: byte stores (R12, R69), the end of an operation and the failure of one (R13,
R14), the free values of the CRC register (R137), and the in-place conversion of a region of `FB` (R170). -/

namespace Sys2Proof.Machine

/-! ### Byte stores -/

/-- The first listed byte at an address. -/
def cellLookup : List Host.Cell → Nat → Option Byte
  | [], _ => none
  | (x, b) :: rest, a => if x = a then some b else cellLookup rest a

/-- The cells with the byte at an address written, in rising order of addresses. -/
def cellInsert : List Host.Cell → Nat → Byte → List Host.Cell
  | [], a, b => [(a, b)]
  | (x, c) :: rest, a, b =>
    if a < x then (a, b) :: (x, c) :: rest
    else if a = x then (a, b) :: rest
    else (x, c) :: cellInsert rest a b

/-- One byte of a store: the last one written, or the free value of the store's draw (R71, R161). -/
def Memory.read (m : Memory) (a : Nat) : Byte := (cellLookup m.cells a).getD (Config.anyByte m.draw a)

/-- Write one byte of a store; "A write has no effect beyond the bytes written" (R69). -/
def Memory.write (m : Memory) (a : Nat) (b : Byte) : Memory := { m with cells := cellInsert m.cells a b }

/-- `MemRead(a, n)`: `n` bytes in address order (R12). -/
def Memory.bytes (m : Memory) (a n : Nat) : List Byte := (List.range' a n).map m.read

/-- `MemWrite(a, n, v)`: the bytes of `v` from address `a` on (R12). -/
def Memory.writeBytes (m : Memory) (a : Nat) : List Byte → Memory
  | [] => m
  | b :: rest => (m.write a b).writeBytes (a + 1) rest

/-- `BE32` of a store (R12). -/
def Memory.beWord (m : Memory) (a : Nat) : Word :=
  wordOf (m.read a) (m.read (a + 1)) (m.read (a + 2)) (m.read (a + 3))

/-- `LE32` of a store (R12). -/
def Memory.leWord (m : Memory) (a : Nat) : Word :=
  wordOf (m.read (a + 3)) (m.read (a + 2)) (m.read (a + 1)) (m.read a)

/-- The canonical form of a store: addresses strictly rising and below the capacity. A byte is listed exactly if something
wrote it since the store's draw; no listed byte can be compared with the free value an unlisted one reads as (log entry 8). -/
abbrev Memory.wf (m : Memory) (cap : Nat) : Prop :=
  m.cells.Pairwise (fun x y => x.1 < y.1) ∧ ∀ c ∈ m.cells, c.1 < cap

/-- The frame kept in a store with a length. -/
def Store.frame (st : Store) : List Byte := st.bytes.bytes 0 st.len.toNat

/-- Copy a byte string to the start of a store and set its length; the bytes after it keep their values (log entry 15). -/
def Store.put (st : Store) (l : List Byte) : Store :=
  { len := BitVec.ofNat 17 l.length, bytes := st.bytes.writeBytes 0 l }

/-! ### The end of an operation -/

/-- Every operation writes `STATUS`, `RES0` and `RES1` once, at its end (R21, R22). -/
def State.finish (s : State) (k : Status) (r0 r1 : Word) : State :=
  { s with status := k, res0 := r0, res1 := r1 }

/-- The end of an operation that does not fail (R14). -/
def State.succeed (s : State) (r0 r1 : Word) : State := s.finish .success r0 r1

/-- `raise K(info)`: the one way an operation fails. `STATUS <- K`, `RES0 <- info`, `RES1 <- 0`, no other state (R14, R355).
Nothing is saved, so there is no return from it (R356). -/
def State.raise (s : State) (k : Status) (info : Word) : State := s.finish k info 0#32

/-- `CRC.R <- any value` (R15, R137): a fresh free value. -/
def State.drawCrc (s : State) : State :=
  { s with crcR := Config.anyWord s.draws, draws := s.draws + 1 }

/-- The failure of a length test in an operation that R137 lists: `CRC.R` is any value "whether or not it succeeded" (R137), but
a length that names a byte past the buffer "touches nothing" (R61, D8). The two are read together in log entry 6. -/
def State.raiseLength (s : State) (total : Nat) : State :=
  { s with
    crcR := if Config.fbCap < total then s.crcR else s.drawCrc.crcR
    draws := if Config.fbCap < total then s.draws else s.drawCrc.draws }.raise .invalidParameter 0#32

/-- The reset of R390 and R391, as the hardware input and `SYS.RESET` both make it: every "any value" is drawn afresh. -/
def State.resetNow (s : State) : State := State.resetAt s.draws s.params s.port

/-! ### Frames in `FB` -/

/-- Swap every word of `FB[4..total)`, the region of `FRM.H2N` and `FRM.N2H` (R66, R170). -/
def State.swapRegion (s : State) (total : Nat) : State :=
  { s with fb := s.fb.writeBytes 4 (swapWords (s.fb.bytes 4 (total - 4))) }

/-- The bytes of a frame followed by their CRC trailer, big-endian (R94). -/
def stamped (body : List Byte) : List Byte := body ++ be32 (crc32 body)

/-- The request frame of a tag and its payload words (R91, R96 to R102). -/
def requestFrame (t : Tag) (ws : List Word) : List Byte :=
  stamped (tagBytes t ++ be32 (BitVec.ofNat 32 (4 * ws.length)) ++ ws.flatMap be32)

end Sys2Proof.Machine
end

