-- ==== Sys2Proof/Machine/Scan.lean ====
section
/-! DEFINITION. The scan parser family (spec/43_scan_parser.md): `ParseScan`, `SCN.PARSE`, `SCN.CLEAR`, `SCN.INFO`, `SCN.GETP`,
`SCN.GETD`, `SCN.GETW`. -/

namespace Sys2Proof.Machine

/-- The ten parameter words of a payload whose words `rd` reads: a missing one is 0, those from the eleventh on are skipped
(R104, R251). -/
def scanParams (rd : Nat → Word) (nP : Nat) : Vector Word 10 :=
  Vector.ofFn (fun i => if i.val < min nP 10 then rd (12 + 4 * i.val) else 0#32)

/-- The number of echoes: parameter index 4, and 1 if that is 0 (R105, R251). -/
def echoCount (par : Vector Word 10) : Int :=
  if par[4] = 0#32 then 1 else s32 par[4]

/-- Bytes per sample of a data-content code (R260): 4, 8, or 0 for an empty data block. -/
def bytesPerSample (dc : Word) : Nat :=
  if dc = Config.dcDist then 4
  else if dc = Config.dcDistPw ∨ dc = Config.dcDistPwEcho then 8
  else 0

/-- How `ParseScan` ends (R251). -/
inductive ParseResult where
  /-- `Success`, with the record it fills. -/
  | parsed (sr : ScanRecord)
  /-- `BufferOverflow`. -/
  | overflow
  /-- The model refuses (R253). -/
  | undefined
  deriving DecidableEq, Repr

/-- `ParseScan(total)` on a frame in host order in `FB` (R250, R251): the tests in the rule's order. -/
def parseScan (fb : Memory) (total : Nat) : ParseResult :=
  let fin := total - 4
  let nP := s32 (fb.leWord 8)
  let offPts := 12 + 4 * nP.toNat
  let par := scanParams fb.leWord nP.toNat
  let nE := echoCount par
  let nPts := s32 (fb.leWord offPts)
  let bps := bytesPerSample par[8]
  let offData := offPts + 4
  let samples := nPts.toNat * nE.toNat
  if total < 16 then .undefined
  else if nP < 0 then .undefined
  else if offPts + 4 > fin then .undefined
  else if nE > Config.maxEchoes ∨ nPts > Config.maxPoints then .overflow
  else if nE < 0 ∨ nPts < 0 then .undefined
  else if offData + samples * bps > fin then .undefined
  else .parsed
    { npar := min nP.toNat 10
      param := par
      npts := nPts.toNat
      nech := nE.toNat
      dist := (List.range samples).map (fun k => if bps = 0 then 0#32 else fb.leWord (offData + k * bps))
      pw := (List.range samples).map (fun k => if bps = 8 then fb.leWord (offData + k * bps + 4) else 0#32) }

/-- `(SR.NPAR << 8) | SR.NECH` (R252, R256). -/
def ScanRecord.counts (sr : ScanRecord) : Word :=
  (BitVec.ofNat 32 sr.npar <<< 8) ||| BitVec.ofNat 32 sr.nech

/-- `SR.DIST[p][e]`: 0 outside the record's points and echoes (R32). -/
def ScanRecord.distAt (sr : ScanRecord) (p e : Nat) : Word :=
  if p < sr.npts ∧ e < sr.nech then sr.dist.getD (p * sr.nech + e) 0#32 else 0#32

/-- `SR.PW[p][e]`: 0 outside the record's points and echoes (R32). -/
def ScanRecord.pwAt (sr : ScanRecord) (p e : Nat) : Word :=
  if p < sr.npts ∧ e < sr.nech then sr.pw.getD (p * sr.nech + e) 0#32 else 0#32

/-- `SCN.PARSE total` (R252). -/
def execScnParse (total : Word) (s : State) : Result :=
  if inBuffer total.toNat 0 then
    match parseScan s.fb total.toNat with
    | .parsed sr => .next ({ s with sr := sr }.succeed (BitVec.ofNat 32 sr.npts) sr.counts)
    | .overflow => .next ({ s with sr := ScanRecord.cleared }.raise .bufferOverflow 0#32)
    | .undefined => .refused .scanPayload
  else .next (s.raise .invalidParameter 0#32)

/-- `SCN.CLEAR` (R255). -/
def execScnClear (s : State) : Result :=
  .next ({ s with sr := ScanRecord.cleared }.succeed 0#32 0#32)

/-- `SCN.INFO` (R256). -/
def execScnInfo (s : State) : Result :=
  .next (s.succeed (BitVec.ofNat 32 s.sr.npts) s.sr.counts)

/-- `SCN.GETP i` (R257). -/
def execScnGetp (idx : Word) (s : State) : Result :=
  if idx.toNat < 10 then .next (s.succeed (s.sr.param.toList.getD idx.toNat 0#32) 0#32)
  else .next (s.raise .indexOutOfRange 0#32)

/-- `SCN.GETD p, e` (R258). -/
def execScnGetd (p e : Word) (s : State) : Result :=
  if p.toNat < s.sr.npts ∧ e.toNat < s.sr.nech then
    .next (s.succeed (s.sr.distAt p.toNat e.toNat) 0#32)
  else .next (s.raise .indexOutOfRange 0#32)

/-- `SCN.GETW p, e` (R259). -/
def execScnGetw (p e : Word) (s : State) : Result :=
  if p.toNat < s.sr.npts ∧ e.toNat < s.sr.nech then
    .next (s.succeed (s.sr.pwAt p.toNat e.toNat) 0#32)
  else .next (s.raise .indexOutOfRange 0#32)

end Sys2Proof.Machine
end

