-- ==== Sys2Proof/Machine/Command.lean ====
section
/-! DEFINITION. The command family (spec/42_command.md): the seven builds, `CMD.TXDONE`, `CMD.RXDONE`, `CMD.RDOUT`,
`CMD.ERRMAP`. -/

namespace Sys2Proof.Machine

/-- `Build(X, tag, w)` (R201): a fresh cycle, the output fields at their defaults, the stamped frame in `FB`. -/
def State.build (s : State) (x : CmdClass) (ws : List Word) : State :=
  { s.drawCrc with
    csmSt := .idle
    csmCls := some x
    cv0 := 0#32
    cv1 := 0#32
    cv2 := 0#32
    strOff := 0#17
    strLen := 0#17
    sr := if x = CmdClass.gscn ∨ x = CmdClass.gsc2 then ScanRecord.cleared else s.sr
    fb := s.fb.writeBytes 0 (requestFrame (classTag x) ws) }.succeed (BitVec.ofNat 32 (12 + 4 * ws.length)) 0#32

/-- `CMD.GVER` (R202). -/
def execCmdGver (s : State) : Result := .next (s.build .gver [])

/-- `CMD.GPRM id` (R203). -/
def execCmdGprm (id : Word) (s : State) : Result := .next (s.build .gprm [id])

/-- `CMD.SPRM id, value` (R204). -/
def execCmdSprm (id value : Word) (s : State) : Result := .next (s.build .sprm [id, value])

/-- `CMD.GPIN id` (R205). -/
def execCmdGpin (id : Word) (s : State) : Result := .next (s.build .gpin [id])

/-- `CMD.SCAN w` (R206). -/
def execCmdScan (w : Word) (s : State) : Result := .next (s.build .scan [w])

/-- `CMD.GSCN scanNumber` (R207). -/
def execCmdGscn (scanNumber : Word) (s : State) : Result := .next (s.build .gscn [scanNumber])

/-- `CMD.GSC2 N, M` (R208). -/
def execCmdGsc2 (n m : Word) (s : State) : Result := .next (s.build .gsc2 [n, m])

/-- `CMD.TXDONE w` (R200, R209). -/
def execCmdTxdone (w : Word) (s : State) : Result :=
  if s.csmCls = none ∨ s.csmSt = .sent then .next (s.raise .invalidParameter 0#32)
  else if s32 w < 0 then .next ({ s with csmCls := none }.raise .writeError w)
  else .next ({ s with csmSt := .sent }.succeed w 0#32)

/-- The length of the string in a byte list: up to the first zero byte, or all of it (R215, R217). -/
def stringLength (l : List Byte) : Nat := (l.takeWhile (fun b => b != 0#8)).length

/-- `Extract_GVER(r)` (R215): only the Length word is converted. -/
def extractGver (r : Nat) (s : State) : Result :=
  if r < 12 then .refused .responseShape
  else
    let n := stringLength (s.fb.bytes 8 (r - 12))
    .next ({ s.swapRegion 8 with strOff := 8#17, strLen := BitVec.ofNat 17 n }.succeed (BitVec.ofNat 32 n) 0#32)

/-- `Extract_GPRM(r)` and `Extract_SPRM(r)` (R216): every word after the tag is converted, the trailer included. -/
def extractValue (r : Nat) (s : State) : Result :=
  if (r - 4) % 4 ≠ 0 ∨ r < 16 + 4 * s.params.rspFirst then .refused .responseShape
  else
    let s' := s.swapRegion r
    let v := s'.fb.leWord (8 + 4 * s.params.rspFirst)
    .next ({ s' with cv0 := v }.succeed v 0#32)

/-- `Extract_GPIN(r)` (R217): the Length word and the numeric words are converted, the string is not. -/
def extractGpin (r : Nat) (s : State) : Result :=
  let q := 8 + 4 * (s.params.rspFirst + 3)
  if r < q + 4 then .refused .responseShape
  else
    let s' := s.swapRegion q
    let n := stringLength (s.fb.bytes q (r - 4 - q))
    .next ({ s' with
      cv0 := s'.fb.leWord (q - 12)
      cv1 := s'.fb.leWord (q - 8)
      cv2 := s'.fb.leWord (q - 4)
      strOff := BitVec.ofNat 17 q
      strLen := BitVec.ofNat 17 n }.succeed (s'.fb.leWord (q - 12)) 0#32)

/-- `Extract_SCAN(r)` (R218): nothing to extract. -/
def extractScan (r : Nat) (s : State) : Result :=
  if (r - 4) % 4 ≠ 0 ∨ r < 12 then .refused .responseShape
  else .next ((s.swapRegion r).succeed 0#32 0#32)

/-- `Extract_GSCN(r)` and `Extract_GSC2(r)` (R219): the parser on the converted frame. On `BufferOverflow` the record is cleared and
`FB` is as it was, as R210 and R355 say of every failure (log entry 11). -/
def extractRecord (r : Nat) (s : State) : Result :=
  if (r - 4) % 4 ≠ 0 ∨ r < 12 then .refused .responseShape
  else
    let s' := s.swapRegion r
    match parseScan s'.fb r with
    | .parsed sr => .next ({ s' with sr := sr }.succeed (BitVec.ofNat 32 sr.npts) 0#32)
    | .overflow => .next ({ s with sr := ScanRecord.cleared }.raise .bufferOverflow 0#32)
    | .undefined => .refused .scanPayload

/-- `Extract_X(r)` by the class of the request; the response's tag is not compared with it (R210, R220). -/
def extract (x : CmdClass) (r : Nat) (s : State) : Result :=
  match x with
  | .gver => extractGver r s
  | .gprm => extractValue r s
  | .sprm => extractValue r s
  | .gpin => extractGpin r s
  | .scan => extractScan r s
  | .gscn => extractRecord r s
  | .gsc2 => extractRecord r s

/-- Steps 4 to 6 of `CMD.RXDONE` on the `r` received bytes (R210): verify, recognise an error frame, extract by the class
`x` of the request. `s` is the state with the cycle already ended. -/
def receive (x : Option CmdClass) (r : Nat) (s : State) : Result :=
  let c := crc32 (s.fb.bytes 0 (r - 4))
  let t := s.fb.beWord (r - 4)
  if c ≠ t then .next (s.finish .crcError c t)
  else if s.fb.bytes 0 4 = tagBytes .err then
    if r < 16 then .refused .responseShape
    else
      let code := s.fb.beWord 8
      .next (s.finish (errMap s.params code) code 1#32)
  else
    match x with
    | some x => extract x r s
    | none => .fault .sentWithoutClass

/-- `CMD.RXDONE r` (R210): the tests in the rule's order (R354). The sequence check changes no state (U19); the cycle ends
whatever follows it, and `CRC.R` is then any value "whether or not it succeeded" (R137), but for a count past the buffer (log
entry 6). -/
def execCmdRxdone (r : Word) (s : State) : Result :=
  let ended := { s with csmSt := .idle, csmCls := none }
  let s' := ended.drawCrc
  if s.csmSt = .idle then .next (s.raise .invalidParameter 0#32)
  else if s32 r < 0 then .next (s'.raise .readError r)
  else if r = 0#32 then .next (s'.raise .timeout 0#32)
  else if frameLengthOk r.toNat = false then .next (ended.raiseLength r.toNat)
  else receive s.csmCls r.toNat s'

/-- `CMD.RDOUT sel` (R212). -/
def execCmdRdout (sel : Word) (s : State) : Result :=
  if sel = 0#32 then .next (s.succeed s.cv0 0#32)
  else if sel = 1#32 then .next (s.succeed s.cv1 0#32)
  else if sel = 2#32 then .next (s.succeed s.cv2 0#32)
  else if sel = 3#32 then .next (s.succeed (s.strOff.setWidth 32) (s.strLen.setWidth 32))
  else .next (s.raise .indexOutOfRange 0#32)

/-- `CMD.ERRMAP c` (R213): the mapped kind is a result, not the status. -/
def execCmdErrmap (c : Word) (s : State) : Result :=
  .next (s.succeed ((errMap s.params c).code.setWidth 32) 0#32)

end Sys2Proof.Machine
end

