-- ==== Sys2Proof/Machine/Crc.lean ====
section
/-! DEFINITION. The CRC family (spec/40_crc.md): `CRC.RESET`, `CRC.UPDATE`, `CRC.FINAL`, `CRC.COMPUTE`. -/

namespace Sys2Proof.Machine

/-- `CRC.RESET` (R133). -/
def execCrcReset (s : State) : Result :=
  .next ({ s with crcR := Config.crcInit }.succeed Config.crcInit 0#32)

/-- `CRC.UPDATE off, len` (R134): the result is the raw register, before the final XOR. -/
def execCrcUpdate (off len : Word) (s : State) : Result :=
  if inBuffer off.toNat len.toNat then
    let r := crcFeed s.crcR (s.fb.bytes off.toNat len.toNat)
    .next ({ s with crcR := r }.succeed r 0#32)
  else .next (s.raise .invalidParameter 0#32)

/-- `CRC.FINAL` (R135): the register is "any value" afterwards. -/
def execCrcFinal (s : State) : Result :=
  .next (s.drawCrc.succeed (s.crcR ^^^ Config.crcXorOut) 0#32)

/-- `CRC.COMPUTE off, len` (R136): the register is any value (R137), but a range past the buffer touches nothing (R61, D8; log
entry 6). -/
def execCrcCompute (off len : Word) (s : State) : Result :=
  if inBuffer off.toNat len.toNat then
    .next (s.drawCrc.succeed (if len = 0#32 then 0#32 else crc32 (s.fb.bytes off.toNat len.toNat)) 0#32)
  else .next (s.raise .invalidParameter 0#32)

end Sys2Proof.Machine
end

