-- ==== Sys2Proof/Machine/Frame.lean ====
section
/-! DEFINITION. The frame codec family (spec/41_frame_codec.md): `BUF.RD`, `BUF.WR`, `FRM.GET32`, `FRM.PUT32`, `FRM.STAMP`,
`FRM.VERIFY`, `FRM.H2N`, `FRM.N2H`. -/

namespace Sys2Proof.Machine

/-- `BUF.RD off` (R161). -/
def execBufRd (off : Word) (s : State) : Result :=
  if inBuffer off.toNat 1 then .next (s.succeed ((s.fb.read off.toNat).setWidth 32) 0#32)
  else .next (s.raise .invalidParameter 0#32)

/-- The byte write of `BUF.WR` (R162), also each step of a delivered frame (R113). -/
def bufWrite (off : Nat) (b : Byte) (s : State) : State :=
  if inBuffer off 1 then { s with fb := s.fb.write off b }.succeed 0#32 0#32
  else s.raise .invalidParameter 0#32

/-- `BUF.WR off, b` (R162). -/
def execBufWr (off b : Word) (s : State) : Result :=
  .next (bufWrite off.toNat (byteOperand b) s)

/-- `FRM.GET32 off` (R163): any alignment. -/
def execFrmGet32 (off : Word) (s : State) : Result :=
  if inBuffer off.toNat 4 then .next (s.succeed (s.fb.beWord off.toNat) 0#32)
  else .next (s.raise .invalidParameter 0#32)

/-- `FRM.PUT32 off, v` (R164): any alignment. -/
def execFrmPut32 (off v : Word) (s : State) : Result :=
  if inBuffer off.toNat 4 then
    .next ({ s with fb := s.fb.writeBytes off.toNat (be32 v) }.succeed 0#32 0#32)
  else .next (s.raise .invalidParameter 0#32)

/-- `FRM.STAMP total` (R165, R166); `CRC.R` after a failure as log entry 6 says. -/
def execFrmStamp (total : Word) (s : State) : Result :=
  if frameLengthOk total.toNat then
    let c := crc32 (s.fb.bytes 0 (total.toNat - 4))
    .next ({ s.drawCrc with fb := s.fb.writeBytes (total.toNat - 4) (be32 c) }.succeed c 0#32)
  else .next (s.raiseLength total.toNat)

/-- `FRM.VERIFY total` (R165, R168): on a mismatch `RES0` and `RES1` keep the two CRCs. `CRC.R` after
a length failure as log entry 6 says. -/
def execFrmVerify (total : Word) (s : State) : Result :=
  if frameLengthOk total.toNat then
    let c := crc32 (s.fb.bytes 0 (total.toNat - 4))
    let t := s.fb.beWord (total.toNat - 4)
    .next (s.drawCrc.finish (if c = t then .success else .crcError) c t)
  else .next (s.raiseLength total.toNat)

/-- The conversion both `FRM.H2N` and `FRM.N2H` make (R170, R171): the size test comes before the alignment test. -/
def convertRegion (total : Word) (s : State) : Result :=
  if inBuffer total.toNat 0 then
    if regionOk total.toNat then
      .next ((s.swapRegion total.toNat).succeed (BitVec.ofNat 32 ((total.toNat - 4) / 4)) 0#32)
    else .refused .conversionRegion
  else .next (s.raise .invalidParameter 0#32)

/-- `FRM.H2N total` (R170). -/
def execFrmH2n (total : Word) (s : State) : Result := convertRegion total s

/-- `FRM.N2H total` (R171). -/
def execFrmN2h (total : Word) (s : State) : Result := convertRegion total s

end Sys2Proof.Machine
end

