-- ==== Sys2Proof/Machine/Average.lean ====
section
/-! DEFINITION. The averaging and decimation engine (spec/44_relay_averaging.md, R293 to R302). -/

namespace Sys2Proof.Machine

/-- `tdiv(a, b)`: the quotient rounded toward zero (R16). -/
def tdiv (a b : Int) : Int := Int.tdiv a b

/-- `ceil_div(a, b)` (R16). -/
def ceilDiv (a b : Nat) : Nat := (a + b - 1) / b

/-- One sample: distance word, pulse-width word (R105). -/
abbrev Sample := Word × Word

/-- `View(F)`: a stored frame read as a scan (R293). -/
structure ScanView where
  frame : List Byte
  nP : Nat
  nE : Nat
  nPts : Nat
  dc : Word
  deriving DecidableEq, Repr

/-- Offset of `numberOfPoints` (R293). -/
def ScanView.offPts (v : ScanView) : Nat := 12 + 4 * v.nP

/-- Offset of the first sample (R293). -/
def ScanView.offData (v : ScanView) : Nat := v.offPts + 4

/-- Bytes per sample (R293). -/
def ScanView.bps (v : ScanView) : Nat := bytesPerSample v.dc

/-- `View(F)`, or nothing for an ill-formed frame (R293). -/
def scanView (f : List Byte) : Option ScanView :=
  let t := f.length
  let nP := s32 (beAt f 8)
  let offPts := 12 + 4 * nP.toNat
  let par := scanParams (beAt f) nP.toNat
  let nE := echoCount par
  let nPts := s32 (beAt f offPts)
  let bps := bytesPerSample par[8]
  if t < 20 ∨ t ≠ 12 + (beAt f 4).toNat then none
  else if nP < 0 ∨ offPts + 4 > t - 4 then none
  else if nE < 1 ∨ nE > Config.maxEchoes then none
  else if nPts < 0 ∨ nPts > Config.maxPoints then none
  else if bps = 0 then none
  else if offPts + 4 + nPts.toNat * nE.toNat * bps ≠ t - 4 then none
  else some { frame := f, nP := nP.toNat, nE := nE.toNat, nPts := nPts.toNat, dc := par[8] }

/-- `(D(F, p, e), W(F, p, e))`; a frame without pulse widths gives 0 for the second, which nothing emits (R293). -/
def ScanView.sample (v : ScanView) (p e : Nat) : Sample :=
  let o := v.offData + (p * v.nE + e) * v.bps
  (beAt v.frame o, if v.bps = 8 then beAt v.frame (o + 4) else 0#32)

/-- `AvgDist(d)`: the sentinel rule, with the count of valid samples (R295). -/
def avgDist (d : List Word) : Word × Nat :=
  let cNE := d.count Config.noEcho
  let cNZ := d.count Config.noise
  let valid := d.filter (fun w => w != Config.noEcho && w != Config.noise)
  if valid.length = 0 then (if cNE ≥ cNZ then Config.noEcho else Config.noise, 0)
  else (u32 (tdiv (valid.map s32).sum valid.length), valid.length)

/-- `AvgPW(w, nV, pwdiv)` (R296): the sum is over all samples; `pwdiv` chooses the divisor. -/
def avgPw (w : List Word) (nV : Nat) (pwdiv : Bool) : Word :=
  let sum := (w.map s32).sum
  u32 (if pwdiv = false then tdiv sum w.length else if nV = 0 then 0 else tdiv sum nV)

/-- Distance and pulse width of a group of samples, averaged together: the valid count of the distances is the one the pulse
widths use (R297, R299, R300). -/
def avgSample (xs : List Sample) (pwdiv : Bool) : Sample :=
  let d := avgDist (xs.map Prod.fst)
  (d.1, avgPw (xs.map Prod.snd) d.2 pwdiv)

/-- Stage a, scan averaging: a row of echoes for every point (R297). -/
def stageA (views : List ScanView) (nPts nE : Nat) (pwdiv : Bool) : List (List Sample) :=
  (List.range nPts).map fun p =>
    (List.range nE).map fun e => avgSample (views.map fun v => v.sample p e) pwdiv

/-- Group `g` of the points: those with `g * M <= p < (g + 1) * M`, fewer at the end (R298). -/
def pointGroup (rows : List (List Sample)) (m g : Nat) : List (List Sample) := (rows.drop (g * m)).take m

/-- Stage b, point averaging: echo `e` of a group with echo `e` of its other points only (R298 to R300). -/
def stageB (rows : List (List Sample)) (m nOut nE : Nat) (pwdiv : Bool) : List (List Sample) :=
  (List.range nOut).map fun g =>
    (List.range nE).map fun e =>
      avgSample ((pointGroup rows m g).map fun row => row.getD e (0#32, 0#32)) pwdiv

/-- The bytes of one sample in the output (R301). -/
def sampleBytes (bps : Nat) (x : Sample) : List Byte := if bps = 8 then be32 x.1 ++ be32 x.2 else be32 x.1

/-- Step c, re-serialisation from the first frame of the cycle (R301): Length and point count corrected, samples replaced, a
fresh CRC. -/
def reserialise (v : ScanView) (rows : List (List Sample)) (nOut : Nat) : List Byte :=
  let length := (beAt v.frame 4).toNat - (v.nPts - nOut) * v.nE * v.bps
  stamped (v.frame.take 4 ++ be32 (BitVec.ofNat 32 length) ++ (v.frame.drop 8).take (v.offPts - 8)
    ++ be32 (BitVec.ofNat 32 nOut) ++ rows.flatMap (fun row => row.flatMap (sampleBytes v.bps)))

/-- Two views agree in `nP`, `nE`, `dc` and `nPts` (R294). -/
def ScanView.agrees (v w : ScanView) : Bool :=
  decide (v.nP = w.nP ∧ v.nE = w.nE ∧ v.dc = w.dc ∧ v.nPts = w.nPts)

/-- `Average(S, N, M, pwdiv)` for the frames in order of arrival, or nothing outside its domain (R294, R302). -/
def average (frames : List (List Byte)) (m : Nat) (pwdiv : Bool) : Option (List Byte) :=
  match frames.mapM scanView with
  | none => none
  | some [] => none
  | some (v :: rest) =>
    if rest.all v.agrees then
      let nOut := ceilDiv v.nPts m
      some (reserialise v (stageB (stageA (v :: rest) v.nPts v.nE pwdiv) m nOut v.nE pwdiv) nOut)
    else none

end Sys2Proof.Machine
end

