-- ==== Sys2Proof/Machine/RelayFamily.lean ====
section
/-! DEFINITION. The relay family (spec/44_relay_averaging.md): `RLY.OUT`, `RLY.IN`, `RLY.RESET`. -/

namespace Sys2Proof.Machine

/-- The plain scan request the relay writes, with the scan number `P_GSCN_SCANNUM` (R101, R284). -/
def plainRequest (p : Params) : List Byte := requestFrame .gscn [p.gscnScanNum]

/-- Action PASS: the frame stays as given (R281). -/
def State.pass (s : State) (total : Word) : State := s.succeed total 0#32

/-- Action REPLAY: the last transformed outbound request is copied back into `FB` (R281, R290). -/
def State.replay (s : State) (action : Word) : State :=
  { s with fb := s.fb.writeBytes 0 (s.rly.lastOut.bytes 0 Config.gscnReqLen) }.succeed 16#32 action

/-- The accumulator after a recognised averaging request that is rewritten (R284). -/
def Relay.start (r : Relay) (n m : Word) (req out : List Byte) : Relay :=
  { r with
    active := true
    n := n
    m := m
    cnt := 0
    origReq := r.origReq.put req
    lastOut := r.lastOut.writeBytes 0 out }

/-- `RLY.OUT total` (R284 to R286): the counts are signed, the request's CRC is not checked. `CRC.R` is any value on
every path (R137), but for a length past the buffer (log entry 6). -/
def execRlyOut (total : Word) (s : State) : Result :=
  let s' := s.drawCrc
  if relayLengthOk total.toNat = false then .next (s.raiseLength total.toNat)
  else if s.fb.bytes 0 4 ≠ tagBytes .gsc2 then .next (s'.pass total)
  else if total.toNat < 20 then .refused .gsc2TooShort
  else
    let n := s.fb.beWord 8
    let m := s.fb.beWord 12
    if s32 n ≤ 1 ∨ s32 m ≤ 1 then
      .next ({ s' with rly := { s.rly with cnt := 0, active := false } }.pass total)
    else if s32 n > Config.maxSlots then .refused .tooManyScans
    else
      let out := plainRequest s.params
      .next ({ s' with
        fb := s.fb.writeBytes 0 out
        rly := s.rly.start n m (s.fb.bytes 0 total.toNat) out }.succeed 16#32 1#32)

/-- The part of R33's invariant that gives `RLY.IN` a free slot, a number of scans and a group size. -/
def Relay.inRange (r : Relay) : Bool :=
  decide (2 ≤ s32 r.n ∧ s32 r.n ≤ Config.maxSlots ∧ 2 ≤ s32 r.m ∧ (r.cnt : Int) < s32 r.n)

/-- The accumulator with a frame stored in the next free slot (R34, R290); there is none past the tenth. -/
def Relay.store (r : Relay) (frame : List Byte) : Relay :=
  if h : r.cnt < 10 then { r with slot := r.slot.set r.cnt (r.slot[r.cnt].put frame), cnt := r.cnt + 1 } else r

/-- The frames collected in the cycle, in order of arrival (R290). -/
def Relay.frames (r : Relay) : List (List Byte) := (r.slot.toList.take r.cnt).map Store.frame

/-- The frame in `FB[0..total)` has a trailer and it matches (R290). -/
def frameIntact (fb : Memory) (total : Nat) : Bool :=
  decide (4 < total) && (crc32 (fb.bytes 0 (total - 4)) == fb.beWord (total - 4))

/-- `RLY.IN total` (R290, R291): a CRC failure is no error status (R358). `CRC.R` as for `RLY.OUT` (log entry 6). -/
def execRlyIn (total : Word) (s : State) : Result :=
  let s' := s.drawCrc
  if relayLengthOk total.toNat = false then .next (s.raiseLength total.toNat)
  else if s.rly.active = false ∨ s.fb.bytes 0 4 ≠ tagBytes .gscn then .next (s'.pass total)
  else if frameIntact s.fb total.toNat = false then
    .next ({ s' with rly := { s.rly with cnt := 0 } }.replay 3#32)
  else if s.rly.inRange = false then .fault .relayOutOfRange
  else
    let rly := s.rly.store (s.fb.bytes 0 total.toNat)
    if (rly.cnt : Int) < s32 rly.n then .next ({ s' with rly := rly }.replay 2#32)
    else
      match average rly.frames (s32 rly.m).toNat (pwdiv s.cfg) with
      | none => .refused .averageDomain
      | some f =>
        .next ({ s' with
          fb := s.fb.writeBytes 0 f
          rly := { rly with cnt := 0, active := false } }.succeed (BitVec.ofNat 32 f.length) 1#32)

/-- `RLY.RESET` (R292). -/
def execRlyReset (s : State) : Result :=
  .next ({ s with
    rly := { s.rly with
      active := false
      n := 0#32
      m := 0#32
      cnt := 0
      origReq := { s.rly.origReq with len := 0#17 } } }.succeed 0#32 0#32)

end Sys2Proof.Machine
end

