-- ==== Sys2Proof/Machine/System.lean ====
section
/-! DEFINITION. The system family (spec/45_system.md): `SYS.NOP`, `SYS.RESET`, `SYS.CFG`, `SYS.RDCFG`. -/

namespace Sys2Proof.Machine

/-- `SYS.NOP` (R340). -/
def execSysNop (s : State) : Result := .next (s.succeed 0#32 0#32)

/-- `SYS.RESET` (R341): the reset of R390, then the results. -/
def execSysReset (s : State) : Result := .next (s.resetNow.succeed 0#32 0#32)

/-- `SYS.CFG v` (R342): reserved bits ignore the write. -/
def execSysCfg (v : Word) (s : State) : Result :=
  .next ({ s with cfg := cfgMask v }.succeed (cfgMask v) 0#32)

/-- `SYS.RDCFG` (R343): reserved bits read as zero (R23). -/
def execSysRdcfg (s : State) : Result := .next (s.succeed (cfgMask s.cfg) 0#32)

end Sys2Proof.Machine
end

