-- ==== Sys2Proof/Machine/Wire.lean ====
section
/-! DEFINITION. The frame rows of the opcode table (R92, R96 to R103). A frame is data, never presented on the command port
(R90): to run a frame row is the host's delivery of that frame into `FB[0..)`, which R113 writes `BUF.LOAD 0, bytes` and
expands into one `BUF.WR` for each byte (log entry 2). -/

namespace Sys2Proof.Machine

/-- `BUF.LOAD off, bytes` as R113 expands it: one `BUF.WR` for each byte, in order. -/
def deliver (off : Nat) : List Byte → State → State
  | [], s => s
  | b :: rest, s => deliver (off + 1) rest (bufWrite off b s)

/-- A `"GVER"` frame, request or response (R96). -/
def execTagGver (length : Word) (payload : List Byte) (crc : Word) (s : State) : Result :=
  .next (deliver 0 (frameBytes .gver length payload crc) s)

/-- A `"GPRM"` frame (R97). -/
def execTagGprm (length : Word) (payload : List Byte) (crc : Word) (s : State) : Result :=
  .next (deliver 0 (frameBytes .gprm length payload crc) s)

/-- An `"SPRM"` frame (R98). -/
def execTagSprm (length : Word) (payload : List Byte) (crc : Word) (s : State) : Result :=
  .next (deliver 0 (frameBytes .sprm length payload crc) s)

/-- A `"GPIN"` frame (R99). -/
def execTagGpin (length : Word) (payload : List Byte) (crc : Word) (s : State) : Result :=
  .next (deliver 0 (frameBytes .gpin length payload crc) s)

/-- A `"SCAN"` frame (R100). -/
def execTagScan (length : Word) (payload : List Byte) (crc : Word) (s : State) : Result :=
  .next (deliver 0 (frameBytes .scan length payload crc) s)

/-- A `"GSCN"` frame, the plain scan request or a scan response (R101, R104). -/
def execTagGscn (length : Word) (payload : List Byte) (crc : Word) (s : State) : Result :=
  .next (deliver 0 (frameBytes .gscn length payload crc) s)

/-- A `"GSC2"` frame, the averaging scan request (R102). -/
def execTagGsc2 (length : Word) (payload : List Byte) (crc : Word) (s : State) : Result :=
  .next (deliver 0 (frameBytes .gsc2 length payload crc) s)

/-- An `"ERR\0"` frame, the error response (R103). -/
def execTagErr (length : Word) (payload : List Byte) (crc : Word) (s : State) : Result :=
  .next (deliver 0 (frameBytes .err length payload crc) s)

end Sys2Proof.Machine
end

