-- ==== Sys2Proof/Machine/Dispatch.lean ====
section
/-! DEFINITION. One arm per instruction. -/

namespace Sys2Proof.Machine

def exec (i : Instr) (s : State) : Host.Outcome State Fault Refusal :=
  match i with
  | .sysNop => Sys2Proof.Machine.execSysNop s
  | .crcReset => Sys2Proof.Machine.execCrcReset s
  | .crcUpdate off len => Sys2Proof.Machine.execCrcUpdate off len s
  | .crcFinal => Sys2Proof.Machine.execCrcFinal s
  | .crcCompute off len => Sys2Proof.Machine.execCrcCompute off len s
  | .bufRd off => Sys2Proof.Machine.execBufRd off s
  | .bufWr off b => Sys2Proof.Machine.execBufWr off b s
  | .frmGet32 off => Sys2Proof.Machine.execFrmGet32 off s
  | .frmPut32 off v => Sys2Proof.Machine.execFrmPut32 off v s
  | .frmStamp total => Sys2Proof.Machine.execFrmStamp total s
  | .frmVerify total => Sys2Proof.Machine.execFrmVerify total s
  | .frmH2n total => Sys2Proof.Machine.execFrmH2n total s
  | .frmN2h total => Sys2Proof.Machine.execFrmN2h total s
  | .cmdGver => Sys2Proof.Machine.execCmdGver s
  | .cmdGprm id => Sys2Proof.Machine.execCmdGprm id s
  | .cmdSprm id value => Sys2Proof.Machine.execCmdSprm id value s
  | .cmdGpin id => Sys2Proof.Machine.execCmdGpin id s
  | .cmdScan w => Sys2Proof.Machine.execCmdScan w s
  | .cmdGscn scanNumber => Sys2Proof.Machine.execCmdGscn scanNumber s
  | .cmdGsc2 n m => Sys2Proof.Machine.execCmdGsc2 n m s
  | .cmdTxdone w => Sys2Proof.Machine.execCmdTxdone w s
  | .cmdRxdone r => Sys2Proof.Machine.execCmdRxdone r s
  | .cmdRdout sel => Sys2Proof.Machine.execCmdRdout sel s
  | .cmdErrmap c => Sys2Proof.Machine.execCmdErrmap c s
  | .scnParse total => Sys2Proof.Machine.execScnParse total s
  | .scnClear => Sys2Proof.Machine.execScnClear s
  | .scnInfo => Sys2Proof.Machine.execScnInfo s
  | .scnGetp idx => Sys2Proof.Machine.execScnGetp idx s
  | .scnGetd p e => Sys2Proof.Machine.execScnGetd p e s
  | .scnGetw p e => Sys2Proof.Machine.execScnGetw p e s
  | .rlyOut total => Sys2Proof.Machine.execRlyOut total s
  | .rlyIn total => Sys2Proof.Machine.execRlyIn total s
  | .rlyReset => Sys2Proof.Machine.execRlyReset s
  | .sysReset => Sys2Proof.Machine.execSysReset s
  | .sysCfg v => Sys2Proof.Machine.execSysCfg v s
  | .sysRdcfg => Sys2Proof.Machine.execSysRdcfg s
  | .tagGver length payload crc => Sys2Proof.Machine.execTagGver length payload crc s
  | .tagGprm length payload crc => Sys2Proof.Machine.execTagGprm length payload crc s
  | .tagSprm length payload crc => Sys2Proof.Machine.execTagSprm length payload crc s
  | .tagGpin length payload crc => Sys2Proof.Machine.execTagGpin length payload crc s
  | .tagScan length payload crc => Sys2Proof.Machine.execTagScan length payload crc s
  | .tagGscn length payload crc => Sys2Proof.Machine.execTagGscn length payload crc s
  | .tagGsc2 length payload crc => Sys2Proof.Machine.execTagGsc2 length payload crc s
  | .tagErr length payload crc => Sys2Proof.Machine.execTagErr length payload crc s

end Sys2Proof.Machine
end

