-- ==== Sys2Proof/WellFormed.lean ====
section
/-! DEFINITION. Which instructions are well formed. Every operand of an operation is a full 32-bit field (R109), so every
operation is; a frame must fit the frame buffer (R62). -/

namespace Sys2Proof

/-- A frame with this payload is at most `FB_CAP` bytes long: "the largest that fits the buffer has `Length = 65524`" (R62).
The Length field itself is not compared with the payload: the block never does (R63, R220). -/
def frameFits (payload : List Byte) : Bool :=
  decide (12 + payload.length ≤ Config.fbCap)

/-- Well-formedness, one arm per constructor. -/
def Instr.wf : Instr → Bool
  | .sysNop => true
  | .crcReset => true
  | .crcUpdate _ _ => true
  | .crcFinal => true
  | .crcCompute _ _ => true
  | .bufRd _ => true
  | .bufWr _ _ => true
  | .frmGet32 _ => true
  | .frmPut32 _ _ => true
  | .frmStamp _ => true
  | .frmVerify _ => true
  | .frmH2n _ => true
  | .frmN2h _ => true
  | .cmdGver => true
  | .cmdGprm _ => true
  | .cmdSprm _ _ => true
  | .cmdGpin _ => true
  | .cmdScan _ => true
  | .cmdGscn _ => true
  | .cmdGsc2 _ _ => true
  | .cmdTxdone _ => true
  | .cmdRxdone _ => true
  | .cmdRdout _ => true
  | .cmdErrmap _ => true
  | .scnParse _ => true
  | .scnClear => true
  | .scnInfo => true
  | .scnGetp _ => true
  | .scnGetd _ _ => true
  | .scnGetw _ _ => true
  | .rlyOut _ => true
  | .rlyIn _ => true
  | .rlyReset => true
  | .sysReset => true
  | .sysCfg _ => true
  | .sysRdcfg => true
  | .tagGver _ payload _ => frameFits payload
  | .tagGprm _ payload _ => frameFits payload
  | .tagSprm _ payload _ => frameFits payload
  | .tagGpin _ payload _ => frameFits payload
  | .tagScan _ payload _ => frameFits payload
  | .tagGscn _ payload _ => frameFits payload
  | .tagGsc2 _ payload _ => frameFits payload
  | .tagErr _ payload _ => frameFits payload

/-- An instruction the encodings can carry. -/
abbrev WellFormed (i : Instr) : Prop := i.wf = true

end Sys2Proof
end

