-- ==== Sys2Proof/Decode.lean ====
section
/-! DEFINITION. The two decoders (R90): of operation words, by the 8-bit code (R108 to R110), and of frames, by the 4-byte
tag (R91, R92). Both are total and reject by name. After them the encoder. -/

namespace Sys2Proof

open Sys2Proof.Machine

/-- Why a request is no instruction of the table. -/
inductive DecodeError where
  /-- One of the 220 reserved operation codes (R111). -/
  | unknownOpcode (opc : Byte)
  /-- A frame whose first four bytes are none of the eight tags (R106). -/
  | unknownTag
  /-- A byte string shorter than the smallest frame, 12 bytes (R62). -/
  | frameTooShort
  /-- A byte string longer than the frame buffer (R409). -/
  | frameTooLong
  /-- The hardware reset input, which is no instruction (R391). -/
  | resetInput
  deriving DecidableEq, Repr

/-- `opc`, bits 7:0 (R108). -/
def opcField (w : OpWord) : Byte := w.extractLsb' 0 8
/-- `a0`, bits 39:8 (R108). -/
def a0Field (w : OpWord) : Word := w.extractLsb' 8 32
/-- `a1`, bits 71:40 (R108). -/
def a1Field (w : OpWord) : Word := w.extractLsb' 40 32
/-- `a2`, bits 103:72, which no operation uses (R108). -/
def a2Field (w : OpWord) : Word := w.extractLsb' 72 32

/-- The operation an operation code names, with its operand fields (R110); unused operands are ignored (R108). -/
def opOfFields (opc : Byte) (a0 a1 : Word) : Except DecodeError Instr :=
  match opc.toNat with
  | 0x00 => .ok .sysNop
  | 0x01 => .ok .crcReset
  | 0x02 => .ok (.crcUpdate a0 a1)
  | 0x03 => .ok .crcFinal
  | 0x04 => .ok (.crcCompute a0 a1)
  | 0x08 => .ok (.bufRd a0)
  | 0x09 => .ok (.bufWr a0 a1)
  | 0x0A => .ok (.frmGet32 a0)
  | 0x0B => .ok (.frmPut32 a0 a1)
  | 0x10 => .ok (.frmStamp a0)
  | 0x11 => .ok (.frmVerify a0)
  | 0x12 => .ok (.frmH2n a0)
  | 0x13 => .ok (.frmN2h a0)
  | 0x20 => .ok .cmdGver
  | 0x21 => .ok (.cmdGprm a0)
  | 0x22 => .ok (.cmdSprm a0 a1)
  | 0x23 => .ok (.cmdGpin a0)
  | 0x24 => .ok (.cmdScan a0)
  | 0x25 => .ok (.cmdGscn a0)
  | 0x26 => .ok (.cmdGsc2 a0 a1)
  | 0x28 => .ok (.cmdTxdone a0)
  | 0x29 => .ok (.cmdRxdone a0)
  | 0x2A => .ok (.cmdRdout a0)
  | 0x2B => .ok (.cmdErrmap a0)
  | 0x30 => .ok (.scnParse a0)
  | 0x31 => .ok .scnClear
  | 0x32 => .ok .scnInfo
  | 0x33 => .ok (.scnGetp a0)
  | 0x34 => .ok (.scnGetd a0 a1)
  | 0x35 => .ok (.scnGetw a0 a1)
  | 0x40 => .ok (.rlyOut a0)
  | 0x41 => .ok (.rlyIn a0)
  | 0x42 => .ok .rlyReset
  | 0xF0 => .ok .sysReset
  | 0xF1 => .ok (.sysCfg a0)
  | 0xF2 => .ok .sysRdcfg
  | _ => .error (.unknownOpcode opc)

/-- The decoder of operation words (R90, R108). -/
def decodeOp (w : OpWord) : Except DecodeError Instr :=
  opOfFields (opcField w) (a0Field w) (a1Field w)

/-- The frame row a tag names, with its fields (R91, R96 to R103). -/
def frameOfFields (t : Tag) (length : Word) (payload : List Byte) (crc : Word) : Instr :=
  match t with
  | .gver => .tagGver length payload crc
  | .gprm => .tagGprm length payload crc
  | .sprm => .tagSprm length payload crc
  | .gpin => .tagGpin length payload crc
  | .scan => .tagScan length payload crc
  | .gscn => .tagGscn length payload crc
  | .gsc2 => .tagGsc2 length payload crc
  | .err => .tagErr length payload crc

/-- The decoder of frames (R90, R91). The received byte count, never the Length field, locates the trailer and the end of the
payload (R93). -/
def decodeFrame (l : List Byte) : Except DecodeError Instr :=
  if l.length < 12 then .error .frameTooShort
  else if l.length > Config.fbCap then .error .frameTooLong
  else
    match tagOf l with
    | none => .error .unknownTag
    | some t =>
      .ok (frameOfFields t (beAt l 4) ((l.drop 8).take (l.length - 12)) (beAt l (l.length - 4)))

/-- The decoder of host requests: operation words and frames never mix (R90). -/
def decode : HostRequest → Except DecodeError Instr
  | .op w => decodeOp w
  | .frame l => decodeFrame l
  | .hwReset => .error .resetInput

/-- An operation word with the given code and operands, `a2` sent as 0 (R108). -/
def opWord (opc : Byte) (a0 a1 : Word) : OpWord :=
  opc.setWidth 104 ||| (a0.setWidth 104 <<< 8) ||| (a1.setWidth 104 <<< 40)

/-- The request that carries an instruction (R110, R91); operands a format does not use are sent as 0. -/
def encode : Instr → HostRequest
  | .sysNop => .op (opWord 0x00#8 0 0)
  | .crcReset => .op (opWord 0x01#8 0 0)
  | .crcUpdate off len => .op (opWord 0x02#8 off len)
  | .crcFinal => .op (opWord 0x03#8 0 0)
  | .crcCompute off len => .op (opWord 0x04#8 off len)
  | .bufRd off => .op (opWord 0x08#8 off 0)
  | .bufWr off b => .op (opWord 0x09#8 off b)
  | .frmGet32 off => .op (opWord 0x0A#8 off 0)
  | .frmPut32 off v => .op (opWord 0x0B#8 off v)
  | .frmStamp total => .op (opWord 0x10#8 total 0)
  | .frmVerify total => .op (opWord 0x11#8 total 0)
  | .frmH2n total => .op (opWord 0x12#8 total 0)
  | .frmN2h total => .op (opWord 0x13#8 total 0)
  | .cmdGver => .op (opWord 0x20#8 0 0)
  | .cmdGprm id => .op (opWord 0x21#8 id 0)
  | .cmdSprm id value => .op (opWord 0x22#8 id value)
  | .cmdGpin id => .op (opWord 0x23#8 id 0)
  | .cmdScan w => .op (opWord 0x24#8 w 0)
  | .cmdGscn scanNumber => .op (opWord 0x25#8 scanNumber 0)
  | .cmdGsc2 n m => .op (opWord 0x26#8 n m)
  | .cmdTxdone w => .op (opWord 0x28#8 w 0)
  | .cmdRxdone r => .op (opWord 0x29#8 r 0)
  | .cmdRdout sel => .op (opWord 0x2A#8 sel 0)
  | .cmdErrmap c => .op (opWord 0x2B#8 c 0)
  | .scnParse total => .op (opWord 0x30#8 total 0)
  | .scnClear => .op (opWord 0x31#8 0 0)
  | .scnInfo => .op (opWord 0x32#8 0 0)
  | .scnGetp idx => .op (opWord 0x33#8 idx 0)
  | .scnGetd p e => .op (opWord 0x34#8 p e)
  | .scnGetw p e => .op (opWord 0x35#8 p e)
  | .rlyOut total => .op (opWord 0x40#8 total 0)
  | .rlyIn total => .op (opWord 0x41#8 total 0)
  | .rlyReset => .op (opWord 0x42#8 0 0)
  | .sysReset => .op (opWord 0xF0#8 0 0)
  | .sysCfg v => .op (opWord 0xF1#8 v 0)
  | .sysRdcfg => .op (opWord 0xF2#8 0 0)
  | .tagGver length payload crc => .frame (frameBytes .gver length payload crc)
  | .tagGprm length payload crc => .frame (frameBytes .gprm length payload crc)
  | .tagSprm length payload crc => .frame (frameBytes .sprm length payload crc)
  | .tagGpin length payload crc => .frame (frameBytes .gpin length payload crc)
  | .tagScan length payload crc => .frame (frameBytes .scan length payload crc)
  | .tagGscn length payload crc => .frame (frameBytes .gscn length payload crc)
  | .tagGsc2 length payload crc => .frame (frameBytes .gsc2 length payload crc)
  | .tagErr length payload crc => .frame (frameBytes .err length payload crc)

/-- The request whose low `nbits` bits, numbered as spec/opcode_table.json numbers them, are `w` and whose other bits are 0.
A row of 32 bits whose word is one of the eight tags is a frame: its bits are `BE32` of frame bytes 0 to 3, so the first byte is
the most significant (R92), and the rest of the smallest frame is zero (R62; log entry 3). Any other word is an operation
word (R108). -/
def tableRequest (nbits w : Nat) : HostRequest :=
  let bytes := be32 (BitVec.ofNat 32 w)
  if nbits = 32 ∧ (tagOf bytes).isSome then .frame (bytes ++ List.replicate 8 0#8)
  else .op (BitVec.ofNat 104 (w % 2 ^ nbits))

/-- The instruction the decoder reads from a word of the opcode table (none where it refuses). -/
def decodeTableWord (nbits w : Nat) : Option Instr :=
  match decode (tableRequest nbits w) with
  | .ok i => some i
  | .error _ => none

end Sys2Proof
end

