-- ==== Sys2Proof/Machine/Request.lean ====
section
/-! DEFINITION. What the block does with a host request that is no instruction of the table. -/

namespace Sys2Proof.Machine

/-- A request the decoders reject. An operation word with a reserved code ends with `UnknownCommand` and no other state change
(R111). A byte string that is no frame of the eight tags is received like any other (R7, R106). The hardware reset input is the
reset of R390 (R391). -/
def takeRejected (r : HostRequest) (s : State) : Result :=
  match r with
  | .op _ => .next (s.raise .unknownCommand 0#32)
  | .frame l => .next (deliver 0 l s)
  | .hwReset => .next s.resetNow

end Sys2Proof.Machine
end

