-- ==== Sys2Proof/Machine/Step.lean ====
section
/-! DEFINITION. One step of the block: the host's next request, if it has made one. -/

namespace Sys2Proof.Machine

/-- One step: the next host request is taken from the port and executed whole (R8, R69, R71). With no request pending the
block does nothing: it "has no activity of its own between operations" (R8). -/
def step (s : State) : Host.Outcome State Fault Refusal :=
  match s.port with
  | [] => .next s
  | r :: rest =>
    match decode r with
    | .ok i => exec i { s with port := rest }
    | .error _ => takeRejected r { s with port := rest }

/-- The state with one more host request, presented before every pending one (log entries 1 and 3). -/
def State.withFetchWord (s : State) (nbits w : Nat) : State :=
  { s with port := tableRequest nbits w :: s.port }

end Sys2Proof.Machine
end

