-- ==== Sys2Proof/Safety.lean ====
section
/-! DEFINITION. What claims are stated in: the invariant of the state (R32, R33 and the bounds of R20), and the words for "these
bytes hold that" and "every other byte is as before". -/

namespace Sys2Proof.Machine

/-- The bytes of a store from an address on are the given ones. -/
def Memory.Holds (m : Memory) (a : Nat) (l : List Byte) : Prop := m.bytes a l.length = l

/-- Every byte outside the `n` bytes at `a` reads as before. -/
def Memory.SameOutside (m m' : Memory) (a n : Nat) : Prop :=
  ∀ x, ¬(a ≤ x ∧ x < a + n) → m'.read x = m.read x

/-- Every word of the region `[4, total)` has its four bytes in reverse order, and every other byte reads as before (R66,
R170). -/
def Memory.Converted (m m' : Memory) (total : Nat) : Prop :=
  (∀ w, 4 ≤ w → w + 4 ≤ total → w % 4 = 0 →
    m'.read w = m.read (w + 3) ∧ m'.read (w + 1) = m.read (w + 2) ∧
      m'.read (w + 2) = m.read (w + 1) ∧ m'.read (w + 3) = m.read w) ∧
    m.SameOutside m' 4 (total - 4)

/-- Every component R37 gives a reset value has it. The components R37 leaves at "any value" are not named. -/
def State.AtReset (s : State) : Prop :=
  s.res0 = 0#32 ∧ s.res1 = 0#32 ∧ s.status = .success ∧ s.cfg = 0#32 ∧ s.csmSt = .idle ∧ s.csmCls = none ∧
    s.cv0 = 0#32 ∧ s.cv1 = 0#32 ∧ s.cv2 = 0#32 ∧ s.strOff = 0#17 ∧ s.strLen = 0#17 ∧
    s.sr.npar = 0 ∧ (∀ k (h : k < 10), s.sr.param[k] = 0#32) ∧ s.sr.npts = 0 ∧ s.sr.nech = 0 ∧
    (∀ p e, s.sr.distAt p e = 0#32 ∧ s.sr.pwAt p e = 0#32) ∧
    s.rly.active = false ∧ s.rly.n = 0#32 ∧ s.rly.m = 0#32 ∧ s.rly.cnt = 0 ∧ s.rly.origReq.len = 0#17

/-- A scan record is the cleared one or a populated one (R32); the entries outside its points and echoes are 0 by
`ScanRecord.distAt` and `ScanRecord.pwAt`. -/
def ScanRecord.wf (sr : ScanRecord) : Prop :=
  sr = ScanRecord.cleared ∨
  (sr.npar ≤ Config.maxParams ∧ sr.npts ≤ Config.maxPoints ∧ 1 ≤ sr.nech ∧ sr.nech ≤ Config.maxEchoes ∧
    sr.dist.length = sr.npts * sr.nech ∧ sr.pw.length = sr.npts * sr.nech ∧
    ∀ k (h : k < 10), sr.npar ≤ k → sr.param[k] = 0#32)

/-- R33's invariant while a cycle is active, with the lengths of the stored frames; no frame is collected otherwise. -/
def Relay.wf (r : Relay) (p : Params) : Prop :=
  if r.active then
    r.inRange = true ∧ r.lastOut.Holds 0 (plainRequest p) ∧
      ∀ k (h : k < 10), k < r.cnt → (r.slot[k]).len.toNat ≤ Config.fbCap
  else r.cnt = 0

/-- Every byte store of the relay is in canonical form. -/
def Relay.storesWf (r : Relay) : Prop :=
  (∀ k (h : k < 10), (r.slot[k]).bytes.wf Config.fbCap) ∧ r.origReq.bytes.wf Config.fbCap ∧
    r.origReq.len.toNat ≤ Config.fbCap ∧ r.lastOut.wf Config.gscnReqLen

/-- The invariant of the machine. -/
structure State.Inv (s : State) : Prop where
  /-- `FB` is in canonical form and holds no byte past its capacity (R27). -/
  fb : s.fb.wf Config.fbCap
  /-- The reserved bits of `CFG` are zero (R23). -/
  cfg : cfgMask s.cfg = s.cfg
  /-- A cycle that is Sent has a class (R200). -/
  csm : s.csmSt = .sent → s.csmCls ≠ none
  /-- The string view lies inside `FB` (R29). -/
  str : s.strOff.toNat + s.strLen.toNat ≤ Config.fbCap
  /-- The scan record (R32). -/
  sr : s.sr.wf
  /-- The averaging cycle (R33). -/
  rly : s.rly.wf s.params
  /-- The relay's byte stores (R34, R35). -/
  stores : s.rly.storesWf

/-- A parameter set as R10 describes it: the 21 codes negative and pairwise distinct. The type of `ERRCODE` makes it so of
every one (`Params.wf_all` in Laws/Invariant.lean). -/
def Params.wf (p : Params) : Prop :=
  (∀ k (h : k < 21), (p.errCode.val[k]).toInt < 0) ∧
    ∀ j k (hj : j < 21) (hk : k < 21), p.errCode.val[j] = p.errCode.val[k] → j = k

/-- A run is safe that meets no fault: every step answers a next state or refuses where the spec does (R359). -/
def Safe (r : Result) : Prop := ∀ f, r ≠ .fault f

end Sys2Proof.Machine
end

