-- ==== Sys2Proof/Certificates/Slice0/Obligations.lean ====
section
/-! DEFINITION. The statements for the provers. Where an operation leaves `CRC.R` at "any value" (R137) the statement takes the
register and the draw counter from the next state itself, so it holds whatever the free value is. -/

open Sys2Proof Sys2Proof.Machine

/-! ### Reset and the system family -/

/-- R37: every component that the rule gives a value has it right after reset. -/
def Obligations.ResetLeavesTheStatedValues : Prop := State.reset.AtReset

/-- R341, R391: `SYS.RESET` completes in every state and leaves the values of R37, and so does the hardware reset input. The
parameters and the host's other requests are no state of the block (log entries 1 and 4). -/
def Obligations.SysResetAndResetInputGiveTheResetState : Prop :=
  ∀ (s : State) (rest : List HostRequest),
    (∃ t, exec .sysReset s = .next t ∧ t.AtReset ∧ t.params = s.params ∧ t.port = s.port) ∧
    (∃ t, step { s with port := .hwReset :: rest } = .next t ∧ t.AtReset ∧ t.params = s.params ∧ t.port = rest)

/-- R340, R342, R343 with R23: the no-op, the write of the control register (bits 31:1 ignored) and the read of it (bits 31:1
zero). -/
def Obligations.SystemOperationsResults : Prop :=
  ∀ (s : State) (v : Word),
    exec .sysNop s = .next { s with res0 := 0#32, res1 := 0#32, status := .success } ∧
    exec (.sysCfg v) s =
      .next { s with cfg := v &&& 1#32, res0 := v &&& 1#32, res1 := 0#32, status := .success } ∧
    exec .sysRdcfg s = .next { s with res0 := s.cfg &&& 1#32, res1 := 0#32, status := .success }

/-! ### The CRC unit -/

/-- R133: `CRC.RESET`. -/
def Obligations.CrcResetStartsANewCrc : Prop :=
  ∀ s : State, exec .crcReset s =
    .next { s with crcR := 0xFFFFFFFF#32, res0 := 0xFFFFFFFF#32, res1 := 0#32, status := .success }

/-- R134: `CRC.UPDATE` feeds `FB[off .. off+len)` byte by byte through the table step and returns the raw register; a range that
leaves the buffer as an exact sum is `InvalidParameter` and leaves `CRC.R` alone. -/
def Obligations.CrcUpdateFeedsTheRange : Prop :=
  ∀ (s : State) (off len : Word),
    (off.toNat + len.toNat ≤ 65536 →
      ∃ r, r = (List.range len.toNat).foldl
          (fun c k =>
            crcTable (((c ^^^ (s.fb.read (off.toNat + k)).setWidth 32) &&& 0xFF#32).setWidth 8) ^^^ (c >>> 8)) s.crcR ∧
        exec (.crcUpdate off len) s = .next { s with crcR := r, res0 := r, res1 := 0#32, status := .success }) ∧
    (65536 < off.toNat + len.toNat →
      exec (.crcUpdate off len) s = .next { s with res0 := 0#32, res1 := 0#32, status := .invalidParameter })

/-- R135: `CRC.FINAL` returns the register XOR the final constant; the register is "any value" afterwards. -/
def Obligations.CrcFinalReturnsTheFinishedCrc : Prop :=
  ∀ s : State, ∃ t, exec .crcFinal s = .next t ∧
    t = { s with res0 := s.crcR ^^^ 0xFFFFFFFF#32, res1 := 0#32, status := .success, crcR := t.crcR, draws := t.draws }

/-- R136 in the words of R130: `CRC.COMPUTE` returns the bit-serial CRC of the range, 0 for an empty one, and
`InvalidParameter` on a range outside the buffer. That nothing else changes there, `CRC.R` included, is the model's reading of R61
and R355 beside R137's "whether or not it succeeded" (log entry 6). -/
def Obligations.CrcComputeReturnsTheBitSerialCrc : Prop :=
  ∀ (s : State) (off len : Word),
    (off.toNat + len.toNat ≤ 65536 → ∃ t, exec (.crcCompute off len) s = .next t ∧
      t = { s with
        res0 := if len = 0#32 then 0#32
          else crc32Msb ((List.range len.toNat).map fun k => s.fb.read (off.toNat + k))
        res1 := 0#32
        status := .success
        crcR := t.crcR
        draws := t.draws }) ∧
    (65536 < off.toNat + len.toNat →
      exec (.crcCompute off len) s = .next { s with res0 := 0#32, res1 := 0#32, status := .invalidParameter })

/-- R131: the register form of the unit and the bit-serial form of R130 agree at every byte boundary and at the end. -/
def Obligations.RegisterFormAgreesWithBitForm : Prop :=
  ∀ l : List Byte,
    crcFeed 0xFFFFFFFF#32 l = (l.foldl crcByteMsb 0xFFFFFFFF#32).reverse ∧ crc32 l = crc32Msb l

/-- R138 (a) and (b): the check value of the nine ASCII digits, and the CRC of the empty sequence. -/
def Obligations.CrcCheckValues : Prop :=
  crc32Msb [0x31#8, 0x32#8, 0x33#8, 0x34#8, 0x35#8, 0x36#8, 0x37#8, 0x38#8, 0x39#8] = 0xCBF43926#32 ∧
  crc32 [0x31#8, 0x32#8, 0x33#8, 0x34#8, 0x35#8, 0x36#8, 0x37#8, 0x38#8, 0x39#8] = 0xCBF43926#32 ∧
  crc32 [] = 0#32

/-- R138 (c): inverting exactly one bit of a byte sequence changes its CRC. -/
def Obligations.OneInvertedBitChangesTheCrc : Prop :=
  ∀ (l : List Byte) (k j : Nat) (h : k < l.length), j < 8 →
    crc32 (l.set k (l[k] ^^^ (1#8 <<< j))) ≠ crc32 l

/-- R134's corner cases with R135: after `CRC.RESET`, two updates over adjacent ranges and `CRC.FINAL` return the CRC of their
union. -/
def Obligations.StreamedCrcIsTheCrcOfTheUnion : Prop :=
  ∀ (s : State) (off n k : Word), off.toNat + n.toNat + k.toNat ≤ 65536 →
    ∃ t1 t2 t3 t4, exec .crcReset s = .next t1 ∧ exec (.crcUpdate off n) t1 = .next t2 ∧
      exec (.crcUpdate (off + n) k) t2 = .next t3 ∧ exec .crcFinal t3 = .next t4 ∧
      t4.res0 = crc32Msb (s.fb.bytes off.toNat (n.toNat + k.toNat)) ∧ t4.fb = s.fb

/-! ### The frame codec -/

/-- R161, R163: the two reads of the frame buffer, at any alignment, change nothing but the results; a read that names a byte
outside the buffer is `InvalidParameter`. -/
def Obligations.BufferReadsReturnTheBytes : Prop :=
  ∀ (s : State) (off : Word),
    (off.toNat < 65536 →
      exec (.bufRd off) s =
        .next { s with res0 := BitVec.ofNat 32 (s.fb.read off.toNat).toNat, res1 := 0#32, status := .success }) ∧
    (off.toNat + 4 ≤ 65536 → ∃ t, exec (.frmGet32 off) s = .next t ∧
      be32 t.res0 = [s.fb.read off.toNat, s.fb.read (off.toNat + 1), s.fb.read (off.toNat + 2), s.fb.read (off.toNat + 3)] ∧
      t = { s with res0 := t.res0, res1 := 0#32, status := .success }) ∧
    (65536 ≤ off.toNat →
      exec (.bufRd off) s = .next { s with res0 := 0#32, res1 := 0#32, status := .invalidParameter }) ∧
    (65536 < off.toNat + 4 →
      exec (.frmGet32 off) s = .next { s with res0 := 0#32, res1 := 0#32, status := .invalidParameter })

/-- R162, R164: the two writes of the frame buffer write the low byte of the operand, or the word in network order, and no other
byte; a write that names a byte outside the buffer is `InvalidParameter` and writes nothing. -/
def Obligations.BufferWritesWriteOnlyTheirBytes : Prop :=
  ∀ (s : State) (off v : Word),
    (off.toNat < 65536 → ∃ t, exec (.bufWr off v) s = .next t ∧
      t.fb.read off.toNat = BitVec.ofNat 8 v.toNat ∧ s.fb.SameOutside t.fb off.toNat 1 ∧
      t = { s with fb := t.fb, res0 := 0#32, res1 := 0#32, status := .success }) ∧
    (off.toNat + 4 ≤ 65536 → ∃ t, exec (.frmPut32 off v) s = .next t ∧
      t.fb.Holds off.toNat (be32 v) ∧ s.fb.SameOutside t.fb off.toNat 4 ∧
      t = { s with fb := t.fb, res0 := 0#32, res1 := 0#32, status := .success }) ∧
    (65536 ≤ off.toNat →
      exec (.bufWr off v) s = .next { s with res0 := 0#32, res1 := 0#32, status := .invalidParameter }) ∧
    (65536 < off.toNat + 4 →
      exec (.frmPut32 off v) s = .next { s with res0 := 0#32, res1 := 0#32, status := .invalidParameter })

/-- R165, R166: `FRM.STAMP` writes the bit-serial CRC of the first `total - 4` bytes, big-endian, into the last four and nothing
else; a length of at most 4 or above 65536 is `InvalidParameter` and leaves `FB` alone. That `CRC.R` is any value after the first
(R137) and unchanged after the second (R61) is the model's reading (log entry 6). -/
def Obligations.StampWritesTheTrailer : Prop :=
  ∀ (s : State) (total : Word),
    (4 < total.toNat ∧ total.toNat ≤ 65536 → ∃ t c, exec (.frmStamp total) s = .next t ∧
      c = crc32Msb (s.fb.bytes 0 (total.toNat - 4)) ∧
      t.fb.Holds (total.toNat - 4) (be32 c) ∧ s.fb.SameOutside t.fb (total.toNat - 4) 4 ∧
      t = { s with fb := t.fb, res0 := c, res1 := 0#32, status := .success, crcR := t.crcR, draws := t.draws }) ∧
    (total.toNat ≤ 4 → ∃ t, exec (.frmStamp total) s = .next t ∧
      t = { s with res0 := 0#32, res1 := 0#32, status := .invalidParameter, crcR := t.crcR, draws := t.draws }) ∧
    (65536 < total.toNat →
      exec (.frmStamp total) s = .next { s with res0 := 0#32, res1 := 0#32, status := .invalidParameter })

/-- R165, R168: `FRM.VERIFY` recomputes the CRC, reads the trailer, returns both, and only reads `FB`; a length of at most 4 or
above 65536 is `InvalidParameter`. That `CRC.R` is any value after the first (R137) and unchanged after the second (R61) is the
model's reading (log entry 6). -/
def Obligations.VerifyComparesTheTrailer : Prop :=
  ∀ (s : State) (total : Word),
    (4 < total.toNat ∧ total.toNat ≤ 65536 → ∃ t c w, exec (.frmVerify total) s = .next t ∧
      c = crc32Msb (s.fb.bytes 0 (total.toNat - 4)) ∧ be32 w = s.fb.bytes (total.toNat - 4) 4 ∧
      t = { s with
        res0 := c
        res1 := w
        status := if c = w then .success else .crcError
        crcR := t.crcR
        draws := t.draws }) ∧
    (total.toNat ≤ 4 → ∃ t, exec (.frmVerify total) s = .next t ∧
      t = { s with res0 := 0#32, res1 := 0#32, status := .invalidParameter, crcR := t.crcR, draws := t.draws }) ∧
    (65536 < total.toNat →
      exec (.frmVerify total) s = .next { s with res0 := 0#32, res1 := 0#32, status := .invalidParameter })

/-- R167: after a successful `FRM.STAMP` the trailer read big-endian is the CRC of the bytes before it, and an immediately
following `FRM.VERIFY` of the same length succeeds. -/
def Obligations.VerifyAfterStampSucceeds : Prop :=
  ∀ (s : State) (total : Word), 4 < total.toNat → total.toNat ≤ 65536 →
    ∃ t u, exec (.frmStamp total) s = .next t ∧ t.status = .success ∧
      t.fb.beWord (total.toNat - 4) = crc32Msb (t.fb.bytes 0 (total.toNat - 4)) ∧
      exec (.frmVerify total) t = .next u ∧ u.status = .success ∧ u.res0 = u.res1

/-- R169: if `FRM.VERIFY` succeeds and exactly one bit of the frame is then inverted, in the protected bytes or in the trailer,
`FRM.VERIFY` fails with `CRCError`. -/
def Obligations.OneInvertedBitFailsVerify : Prop :=
  ∀ (s t : State) (total : Word) (k j : Nat), exec (.frmVerify total) s = .next t → t.status = .success →
    k < total.toNat → j < 8 →
    ∃ u, exec (.frmVerify total) { s with fb := s.fb.write k (s.fb.read k ^^^ (1#8 <<< j)) } = .next u ∧
      u.status = .crcError

/-- R170, R171: both conversions reverse the bytes of every word of `[4, total)`, return the number of words, and write nothing
else; a region outside the buffer is `InvalidParameter`; on a region that is not whole words beyond the header the model
refuses (U1). -/
def Obligations.ConversionsSwapEveryWord : Prop :=
  ∀ (s : State) (total : Word) (i : Instr), i = .frmH2n total ∨ i = .frmN2h total →
    (4 ≤ total.toNat ∧ total.toNat ≤ 65536 ∧ (total.toNat - 4) % 4 = 0 → ∃ t, exec i s = .next t ∧
      s.fb.Converted t.fb total.toNat ∧
      t = { s with fb := t.fb, res0 := BitVec.ofNat 32 ((total.toNat - 4) / 4), res1 := 0#32, status := .success }) ∧
    (total.toNat ≤ 65536 ∧ (total.toNat < 4 ∨ (total.toNat - 4) % 4 ≠ 0) →
      exec i s = .refused .conversionRegion) ∧
    (65536 < total.toNat → exec i s = .next { s with res0 := 0#32, res1 := 0#32, status := .invalidParameter })

/-- R172: either conversion after either one restores the frame buffer byte for byte, on every region R170 accepts. -/
def Obligations.ConversionTwiceIsTheIdentity : Prop :=
  ∀ (s : State) (total : Word) (i j : Instr), (i = .frmH2n total ∨ i = .frmN2h total) →
    (j = .frmH2n total ∨ j = .frmN2h total) →
    4 ≤ total.toNat → total.toNat ≤ 65536 → (total.toNat - 4) % 4 = 0 →
    ∃ t u, exec i s = .next t ∧ exec j t = .next u ∧ ∀ x, u.fb.read x = s.fb.read x

/-! ### The command cycle -/

/-- R201 to R208: every build completes in every state, leaves `(Idle, X)`, the five output fields at 0, the record cleared for
the two scan classes, and in `FB[0..total)` the frame ID, Length, words, CRC of its class; nothing else. -/
def Obligations.BuildsWriteTheRequestFrame : Prop :=
  ∀ (s : State) (a b : Word) (i : Instr) (x : CmdClass) (ws : List Word),
    (i, x, ws) ∈ [(Instr.cmdGver, CmdClass.gver, []), (.cmdGprm a, .gprm, [a]), (.cmdSprm a b, .sprm, [a, b]),
      (.cmdGpin a, .gpin, [a]), (.cmdScan a, .scan, [a]), (.cmdGscn a, .gscn, [a]), (.cmdGsc2 a b, .gsc2, [a, b])] →
    ∃ t body, exec i s = .next t ∧
      body = tagBytes (classTag x) ++ be32 (BitVec.ofNat 32 (4 * ws.length)) ++ ws.flatMap be32 ∧
      t.fb.Holds 0 (body ++ be32 (crc32Msb body)) ∧ s.fb.SameOutside t.fb 0 (12 + 4 * ws.length) ∧
      t = { s with
        csmSt := .idle
        csmCls := some x
        cv0 := 0#32
        cv1 := 0#32
        cv2 := 0#32
        strOff := 0#17
        strLen := 0#17
        sr := if x = CmdClass.gscn ∨ x = CmdClass.gsc2 then ScanRecord.cleared else s.sr
        fb := t.fb
        res0 := BitVec.ofNat 32 (12 + 4 * ws.length)
        res1 := 0#32
        status := .success
        crcR := t.crcR
        draws := t.draws }

/-- R63 for the frames the block builds: the Length field is the byte count of the payload, and `FRM.VERIFY` of the frame's length,
the build's own result, succeeds. -/
def Obligations.BuiltRequestsVerify : Prop :=
  ∀ (s : State) (a b : Word) (i : Instr),
    i ∈ [Instr.cmdGver, .cmdGprm a, .cmdSprm a b, .cmdGpin a, .cmdScan a, .cmdGscn a, .cmdGsc2 a b] →
    ∃ t u, exec i s = .next t ∧ t.fb.beWord 4 = t.res0 - 12#32 ∧
      exec (.frmVerify t.res0) t = .next u ∧ u.status = .success

/-- R209 and its rows of R200: the three outcomes of reporting the write. -/
def Obligations.TxdoneReportsTheWrite : Prop :=
  ∀ (s : State) (w : Word),
    (s.csmCls = none ∨ s.csmSt = .sent →
      exec (.cmdTxdone w) s = .next { s with res0 := 0#32, res1 := 0#32, status := .invalidParameter }) ∧
    (s.csmCls ≠ none → s.csmSt = .idle → w.toInt < 0 →
      exec (.cmdTxdone w) s = .next { s with csmCls := none, res0 := w, res1 := 0#32, status := .writeError }) ∧
    (s.csmCls ≠ none → s.csmSt = .idle → 0 ≤ w.toInt →
      exec (.cmdTxdone w) s = .next { s with csmSt := .sent, res0 := w, res1 := 0#32, status := .success })

/-- The first tests of R210, in its order: not Sent, which changes no state (U19), a negative count, zero, a size outside 5 to
65536, which end the cycle. That `CRC.R` is any value after these (R137) but unchanged after a count past the buffer (R61) is
the model's reading (log entry 6); nothing else changes. -/
def Obligations.RxdoneReportsTransportFailures : Prop :=
  ∀ (s : State) (r : Word),
    (s.csmSt = .idle → exec (.cmdRxdone r) s = .next { s with res0 := 0#32, res1 := 0#32, status := .invalidParameter }) ∧
    (s.csmSt = .sent → r.toInt < 0 ∨ r.toNat ≤ 4 → ∃ t, exec (.cmdRxdone r) s = .next t ∧
      t = { s with
        csmSt := .idle
        csmCls := none
        res0 := if r.toInt < 0 then r else 0#32
        res1 := 0#32
        status := if r.toInt < 0 then .readError else if r = 0#32 then .timeout else .invalidParameter
        crcR := t.crcR
        draws := t.draws }) ∧
    (s.csmSt = .sent → 0 ≤ r.toInt → 65536 < r.toNat → exec (.cmdRxdone r) s =
      .next { s with csmSt := .idle, csmCls := none, res0 := 0#32, res1 := 0#32, status := .invalidParameter })

/-- Step 4 of R210 with R354: a CRC mismatch ends the cycle with both CRCs returned, whatever the tag, and leaves `FB`, the
outputs and the record alone. -/
def Obligations.RxdoneCrcMismatchIsAHardFailure : Prop :=
  ∀ (s : State) (r : Word), s.csmSt = .sent → 4 < r.toNat → r.toNat ≤ 65536 →
    crc32Msb (s.fb.bytes 0 (r.toNat - 4)) ≠ s.fb.beWord (r.toNat - 4) →
    ∃ t, exec (.cmdRxdone r) s = .next t ∧
      t = { s with
        csmSt := .idle
        csmCls := none
        res0 := crc32Msb (s.fb.bytes 0 (r.toNat - 4))
        res1 := s.fb.beWord (r.toNat - 4)
        status := .crcError
        crcR := t.crcR
        draws := t.draws }

/-- Step 5 of R210 with R357: an intact error frame of at least 16 bytes ends the cycle with the mapped kind, the raw code and
`RES1 = 1`, and extracts nothing; a shorter one is refused (U5). -/
def Obligations.RxdoneReturnsTheErrorFrameKind : Prop :=
  ∀ (s : State) (r : Word), s.csmSt = .sent → 4 < r.toNat → r.toNat ≤ 65536 →
    crc32Msb (s.fb.bytes 0 (r.toNat - 4)) = s.fb.beWord (r.toNat - 4) →
    s.fb.bytes 0 4 = [0x45#8, 0x52#8, 0x52#8, 0x00#8] →
    (16 ≤ r.toNat → ∃ t, exec (.cmdRxdone r) s = .next t ∧
      t = { s with
        csmSt := .idle
        csmCls := none
        res0 := s.fb.beWord 8
        res1 := 1#32
        status := errMap s.params (s.fb.beWord 8)
        crcR := t.crcR
        draws := t.draws }) ∧
    (r.toNat < 16 → exec (.cmdRxdone r) s = .refused .responseShape)

/-- R10, R214: in every parameter set the 21 codes are negative and pairwise distinct, and the error-code mapping inverts
them. -/
def Obligations.ErrorCodeMapping : Prop :=
  ∀ (p : Params) (c : Word),
    (∀ k (h : k < 21), (p.errCode.val[k]).toInt < 0) ∧
    (∀ j k (hj : j < 21) (hk : k < 21), p.errCode.val[j] = p.errCode.val[k] → j = k) ∧
    (0 ≤ c.toInt → errMap p c = .success) ∧
    (∀ k : Status, ∀ h : k.code.toNat - 1 < 21, k ≠ .success → c = p.errCode.val[k.code.toNat - 1] → errMap p c = k) ∧
    (c.toInt < 0 → (∀ k (h : k < 21), c ≠ p.errCode.val[k]) → errMap p c = .invalidHandle)

/-- R212, R213: the getters of the output fields and the mapping as a result, which never is the status of the operation. The
8-bit codes it returns are those of R350, and there is no other kind. -/
def Obligations.OutputAndMappingGetters : Prop :=
  (∀ k : Status, (k, k.code) ∈
    [(.success, 0#8), (.systemNotReady, 1#8), (.environmentalFault, 2#8), (.outOfOperatingRange, 3#8),
      (.sensorUnitFailure, 4#8), (.serializationVersionMismatch, 5#8), (.configurationError, 6#8),
      (.fatalSystemError, 7#8), (.bufferOverflow, 8#8), (.indexOutOfRange, 9#8), (.divisionByZero, 10#8),
      (.invalidHandle, 11#8), (.unsupportedFunction, 12#8), (.accessDenied, 13#8), (.invalidParameter, 14#8),
      (.unknownCommand, 15#8), (.crcError, 16#8), (.userBreak, 17#8), (.timeout, 18#8), (.writeError, 19#8),
      (.readError, 20#8), (.ioError, 21#8)]) ∧
  ∀ (s : State) (v : Word),
    exec (.cmdRdout 0#32) s = .next { s with res0 := s.cv0, res1 := 0#32, status := .success } ∧
    exec (.cmdRdout 1#32) s = .next { s with res0 := s.cv1, res1 := 0#32, status := .success } ∧
    exec (.cmdRdout 2#32) s = .next { s with res0 := s.cv2, res1 := 0#32, status := .success } ∧
    exec (.cmdRdout 3#32) s =
      .next { s with
        res0 := BitVec.ofNat 32 s.strOff.toNat
        res1 := BitVec.ofNat 32 s.strLen.toNat
        status := .success } ∧
    (3 < v.toNat → exec (.cmdRdout v) s = .next { s with res0 := 0#32, res1 := 0#32, status := .indexOutOfRange }) ∧
    ∃ t, exec (.cmdErrmap v) s = .next t ∧ t.res0.toNat = (errMap s.params v).code.toNat ∧
      t = { s with res0 := t.res0, res1 := 0#32, status := .success }

/-- R215 through R210: an intact response to a version query converts the Length word only and returns the string up to its
first zero byte, or to the trailer; one shorter than 12 bytes is refused (U5). -/
def Obligations.RxdoneExtractsTheVersionString : Prop :=
  ∀ (s : State) (r : Word), s.csmSt = .sent → s.csmCls = some .gver → 4 < r.toNat → r.toNat ≤ 65536 →
    crc32Msb (s.fb.bytes 0 (r.toNat - 4)) = s.fb.beWord (r.toNat - 4) → s.fb.bytes 0 4 ≠ tagBytes .err →
    (r.toNat < 12 → exec (.cmdRxdone r) s = .refused .responseShape) ∧
    (12 ≤ r.toNat → ∃ t n, exec (.cmdRxdone r) s = .next t ∧ n ≤ r.toNat - 12 ∧ (∀ k, k < n → s.fb.read (8 + k) ≠ 0#8) ∧
      (n < r.toNat - 12 → s.fb.read (8 + n) = 0#8) ∧ s.fb.Converted t.fb 8 ∧
      t = { s with
        csmSt := .idle
        csmCls := none
        fb := t.fb
        strOff := 8#17
        strLen := BitVec.ofNat 17 n
        res0 := BitVec.ofNat 32 n
        res1 := 0#32
        status := .success
        crcR := t.crcR
        draws := t.draws })

/-- R216 through R210: an intact word-sized response to a parameter read or write returns the payload word `P_RSP_FIRST` and
converts every word after the tag; one that is not whole words or does not hold the word is refused (U5). -/
def Obligations.RxdoneExtractsTheParameterValue : Prop :=
  ∀ (s : State) (r : Word), s.csmSt = .sent → s.csmCls = some .gprm ∨ s.csmCls = some .sprm →
    4 < r.toNat → r.toNat ≤ 65536 →
    crc32Msb (s.fb.bytes 0 (r.toNat - 4)) = s.fb.beWord (r.toNat - 4) → s.fb.bytes 0 4 ≠ tagBytes .err →
    ((r.toNat - 4) % 4 ≠ 0 ∨ r.toNat < 16 + 4 * s.params.rspFirst →
      exec (.cmdRxdone r) s = .refused .responseShape) ∧
    ((r.toNat - 4) % 4 = 0 → 16 + 4 * s.params.rspFirst ≤ r.toNat → ∃ t, exec (.cmdRxdone r) s = .next t ∧ s.fb.Converted t.fb r.toNat ∧
      t = { s with
        csmSt := .idle
        csmCls := none
        fb := t.fb
        cv0 := s.fb.beWord (8 + 4 * s.params.rspFirst)
        res0 := s.fb.beWord (8 + 4 * s.params.rspFirst)
        res1 := 0#32
        status := .success
        crcR := t.crcR
        draws := t.draws })

/-- R217 through R210: an intact response to a parameter-info query returns current, minimum, maximum and the string after them;
the words up to the maximum are converted and the string is not; one that does not hold the three words is refused (U5). -/
def Obligations.RxdoneExtractsTheParameterInfo : Prop :=
  ∀ (s : State) (r : Word) (q : Nat), q = 8 + 4 * (s.params.rspFirst + 3) →
    s.csmSt = .sent → s.csmCls = some .gpin → 4 < r.toNat → r.toNat ≤ 65536 →
    crc32Msb (s.fb.bytes 0 (r.toNat - 4)) = s.fb.beWord (r.toNat - 4) → s.fb.bytes 0 4 ≠ tagBytes .err →
    (r.toNat < q + 4 → exec (.cmdRxdone r) s = .refused .responseShape) ∧
    (q + 4 ≤ r.toNat → ∃ t n, exec (.cmdRxdone r) s = .next t ∧ n ≤ r.toNat - 4 - q ∧ (∀ k, k < n → s.fb.read (q + k) ≠ 0#8) ∧
      (n < r.toNat - 4 - q → s.fb.read (q + n) = 0#8) ∧ s.fb.Converted t.fb q ∧
      t = { s with
        csmSt := .idle
        csmCls := none
        fb := t.fb
        cv0 := s.fb.beWord (q - 12)
        cv1 := s.fb.beWord (q - 8)
        cv2 := s.fb.beWord (q - 4)
        strOff := BitVec.ofNat 17 q
        strLen := BitVec.ofNat 17 n
        res0 := s.fb.beWord (q - 12)
        res1 := 0#32
        status := .success
        crcR := t.crcR
        draws := t.draws })

/-- R218 and R219 through R210: an intact word-sized response of at least 12 bytes to a scan start or stop is converted and
extracts nothing; to a scan request it is converted and parsed, and the next state holds the record the parser fills. A
response that is not whole words or is shorter is refused (U5), and so is a payload the parser refuses (U4). -/
def Obligations.RxdoneExtractsTheScan : Prop :=
  ∀ (s : State) (r : Word), s.csmSt = .sent → 4 < r.toNat → r.toNat ≤ 65536 →
    crc32Msb (s.fb.bytes 0 (r.toNat - 4)) = s.fb.beWord (r.toNat - 4) → s.fb.bytes 0 4 ≠ tagBytes .err →
    (s.csmCls = some .scan ∨ s.csmCls = some .gscn ∨ s.csmCls = some .gsc2 →
      (r.toNat - 4) % 4 ≠ 0 ∨ r.toNat < 12 → exec (.cmdRxdone r) s = .refused .responseShape) ∧
    (∀ m, s.csmCls = some .gscn ∨ s.csmCls = some .gsc2 → 12 ≤ r.toNat → exec (.frmN2h r) s = .next m →
      parseScan m.fb r.toNat = .undefined → exec (.cmdRxdone r) s = .refused .scanPayload) ∧
    (s.csmCls = some .scan → (r.toNat - 4) % 4 = 0 → 12 ≤ r.toNat → ∃ t, exec (.cmdRxdone r) s = .next t ∧ s.fb.Converted t.fb r.toNat ∧
      t = { s with
        csmSt := .idle
        csmCls := none
        fb := t.fb
        res0 := 0#32
        res1 := 0#32
        status := .success
        crcR := t.crcR
        draws := t.draws }) ∧
    (∀ sr m, s.csmCls = some .gscn ∨ s.csmCls = some .gsc2 → 12 ≤ r.toNat → exec (.frmN2h r) s = .next m →
      parseScan m.fb r.toNat = .parsed sr → ∃ t, exec (.cmdRxdone r) s = .next t ∧
      t = { s with
        csmSt := .idle
        csmCls := none
        fb := m.fb
        sr := sr
        res0 := BitVec.ofNat 32 sr.npts
        res1 := 0#32
        status := .success
        crcR := t.crcR
        draws := t.draws })

/-- R210, R219 and R355: a scan response whose counts exceed the maxima ends with `BufferOverflow` and a cleared record, `FB` and
the output fields as they were (how R219 is read beside R355: log entry 11). -/
def Obligations.RxdoneScanOverflowClearsTheRecord : Prop :=
  ∀ (s m : State) (r : Word), s.csmSt = .sent → s.csmCls = some .gscn ∨ s.csmCls = some .gsc2 →
    (r.toNat - 4) % 4 = 0 → 12 ≤ r.toNat → r.toNat ≤ 65536 →
    crc32Msb (s.fb.bytes 0 (r.toNat - 4)) = s.fb.beWord (r.toNat - 4) → s.fb.bytes 0 4 ≠ tagBytes .err →
    exec (.frmN2h r) s = .next m → parseScan m.fb r.toNat = .overflow →
    ∃ t, exec (.cmdRxdone r) s = .next t ∧
      t = { s with
        csmSt := .idle
        csmCls := none
        sr := ScanRecord.cleared
        res0 := 0#32
        res1 := 0#32
        status := .bufferOverflow
        crcR := t.crcR
        draws := t.draws }

/-! ### The scan parser -/

/-- R251, R252: a payload whose counts lie inside the maxima and whose samples lie inside the frame fills the whole record:
parameters from the eleventh on skipped, missing ones 0, one echo where parameter 4 is 0, samples point-major and echo-minor by
the data-content code. -/
def Obligations.ParseFillsTheWholeRecord : Prop :=
  ∀ (s : State) (total : Word) (nP nE nPts bps : Nat) (par : Nat → Word),
    16 ≤ total.toNat → total.toNat ≤ 65536 → s.fb.leWord 8 = BitVec.ofNat 32 nP → nP < 2 ^ 31 →
    12 + 4 * nP + 4 ≤ total.toNat - 4 →
    (∀ k, par k = if k < min nP 10 then s.fb.leWord (12 + 4 * k) else 0#32) →
    (par 4 = 0#32 ∧ nE = 1 ∨ par 4 = BitVec.ofNat 32 nE ∧ 1 ≤ nE ∧ nE ≤ 4) →
    s.fb.leWord (12 + 4 * nP) = BitVec.ofNat 32 nPts → nPts ≤ 4000 →
    bps = (if par 8 = 4#32 then 4 else if par 8 = 8#32 ∨ par 8 = 7#32 then 8 else 0) →
    16 + 4 * nP + nPts * nE * bps ≤ total.toNat - 4 →
    ∃ t, exec (.scnParse total) s = .next t ∧
      t.sr.npar = min nP 10 ∧ (∀ k (h : k < 10), t.sr.param[k] = par k) ∧ t.sr.npts = nPts ∧ t.sr.nech = nE ∧
      (∀ p e, t.sr.distAt p e =
        if p < nPts ∧ e < nE ∧ bps ≠ 0 then s.fb.leWord (16 + 4 * nP + (p * nE + e) * bps) else 0#32) ∧
      (∀ p e, t.sr.pwAt p e =
        if p < nPts ∧ e < nE ∧ bps = 8 then s.fb.leWord (16 + 4 * nP + (p * nE + e) * bps + 4) else 0#32) ∧
      t = { s with
        sr := t.sr
        res0 := BitVec.ofNat 32 nPts
        res1 := BitVec.ofNat 32 (min nP 10 * 256 + nE)
        status := .success }

/-- R251, R254 (a) and (c): with the parameter block and the point count inside the payload, more than 4 echoes or more than 4000
points is `BufferOverflow` with a cleared record, whatever the frame's size and whatever the other count's sign. -/
def Obligations.ParseOverflowClearsTheRecord : Prop :=
  ∀ (s : State) (total : Word) (nP : Nat),
    16 ≤ total.toNat → total.toNat ≤ 65536 → s.fb.leWord 8 = BitVec.ofNat 32 nP → nP < 2 ^ 31 →
    12 + 4 * nP + 4 ≤ total.toNat - 4 →
    (5 ≤ nP ∧ 4 < (s.fb.leWord 28).toInt ∨ 4000 < (s.fb.leWord (12 + 4 * nP)).toInt) →
    exec (.scnParse total) s =
      .next { s with sr := ScanRecord.cleared, res0 := 0#32, res1 := 0#32, status := .bufferOverflow }

/-- R253: the shapes of payload the document does not define are refused (U4): no parameter count, a negative one, a parameter
block or point count past the payload, a negative point or echo count beside one that does not overflow, samples past the
payload. A length past the buffer is `InvalidParameter` and leaves the record alone (R252). -/
def Obligations.ParseRefusesUndefinedPayloads : Prop :=
  ∀ (s : State) (total : Word),
    (65536 < total.toNat →
      exec (.scnParse total) s = .next { s with res0 := 0#32, res1 := 0#32, status := .invalidParameter }) ∧
    (total.toNat ≤ 65536 →
    (total.toNat < 16 → exec (.scnParse total) s = .refused .scanPayload) ∧
    ((s.fb.leWord 8).toInt < 0 → exec (.scnParse total) s = .refused .scanPayload) ∧
    (total.toNat < 20 + 4 * (s.fb.leWord 8).toNat → exec (.scnParse total) s = .refused .scanPayload) ∧
    (∀ nP, s.fb.leWord 8 = BitVec.ofNat 32 nP → nP < 2 ^ 31 → 20 + 4 * nP ≤ total.toNat →
      (nP < 5 ∨ (s.fb.leWord 28).toInt ≤ 4) → (s.fb.leWord (12 + 4 * nP)).toInt < 0 →
      exec (.scnParse total) s = .refused .scanPayload) ∧
    (∀ nP, s.fb.leWord 8 = BitVec.ofNat 32 nP → 5 ≤ nP → nP < 2 ^ 31 → 20 + 4 * nP ≤ total.toNat →
      (s.fb.leWord 28).toInt < 0 → (s.fb.leWord (12 + 4 * nP)).toInt ≤ 4000 →
      exec (.scnParse total) s = .refused .scanPayload) ∧
    (∀ (nP nE nPts bps : Nat) (par : Nat → Word), s.fb.leWord 8 = BitVec.ofNat 32 nP → nP < 2 ^ 31 →
      20 + 4 * nP ≤ total.toNat →
      (∀ k, par k = if k < min nP 10 then s.fb.leWord (12 + 4 * k) else 0#32) →
      (par 4 = 0#32 ∧ nE = 1 ∨ par 4 = BitVec.ofNat 32 nE ∧ 1 ≤ nE ∧ nE ≤ 4) →
      s.fb.leWord (12 + 4 * nP) = BitVec.ofNat 32 nPts → nPts ≤ 4000 →
      bps = (if par 8 = 4#32 then 4 else if par 8 = 8#32 ∨ par 8 = 7#32 then 8 else 0) →
      total.toNat < 20 + 4 * nP + nPts * nE * bps →
      exec (.scnParse total) s = .refused .scanPayload))

/-- R255, R256: clearing the record and reading its counts. -/
def Obligations.ClearAndInfoResults : Prop :=
  ∀ s : State,
    exec .scnClear s = .next { s with sr := ScanRecord.cleared, res0 := 0#32, res1 := 0#32, status := .success } ∧
    (∀ p e, ScanRecord.cleared.distAt p e = 0#32 ∧ ScanRecord.cleared.pwAt p e = 0#32) ∧
    (s.sr.npar ≤ 10 → s.sr.nech ≤ 4 → exec .scnInfo s =
      .next { s with
        res0 := BitVec.ofNat 32 s.sr.npts
        res1 := BitVec.ofNat 32 (s.sr.npar * 256 + s.sr.nech)
        status := .success })

/-- R257 to R259: the three getters inside the record, and `IndexOutOfRange` outside it. -/
def Obligations.RecordGettersResults : Prop :=
  ∀ (s : State) (p e : Word),
    (∀ h : p.toNat < 10, exec (.scnGetp p) s =
      .next { s with res0 := s.sr.param[p.toNat], res1 := 0#32, status := .success }) ∧
    (10 ≤ p.toNat → exec (.scnGetp p) s =
      .next { s with res0 := 0#32, res1 := 0#32, status := .indexOutOfRange }) ∧
    (p.toNat < s.sr.npts → e.toNat < s.sr.nech →
      exec (.scnGetd p e) s =
        .next { s with res0 := s.sr.distAt p.toNat e.toNat, res1 := 0#32, status := .success } ∧
      exec (.scnGetw p e) s =
        .next { s with res0 := s.sr.pwAt p.toNat e.toNat, res1 := 0#32, status := .success }) ∧
    (s.sr.npts ≤ p.toNat ∨ s.sr.nech ≤ e.toNat →
      exec (.scnGetd p e) s = .next { s with res0 := 0#32, res1 := 0#32, status := .indexOutOfRange } ∧
      exec (.scnGetw p e) s = .next { s with res0 := 0#32, res1 := 0#32, status := .indexOutOfRange })

/-! ### The relay -/

/-- R282, R284, R285: `RLY.OUT` passes a frame of another tag, and an averaging request with either count at most 1 (the latter
deactivating the cycle); a bad length is `InvalidParameter`, with `CRC.R` as log entry 6 reads R137 and R61. -/
def Obligations.OutboundPassesOtherFrames : Prop :=
  ∀ (s : State) (total : Word),
    (total.toNat < 4 → ∃ t, exec (.rlyOut total) s = .next t ∧
      t = { s with res0 := 0#32, res1 := 0#32, status := .invalidParameter, crcR := t.crcR, draws := t.draws }) ∧
    (65536 < total.toNat →
      exec (.rlyOut total) s = .next { s with res0 := 0#32, res1 := 0#32, status := .invalidParameter }) ∧
    (4 ≤ total.toNat → total.toNat ≤ 65536 → s.fb.bytes 0 4 ≠ tagBytes .gsc2 →
      ∃ t, exec (.rlyOut total) s = .next t ∧
      t = { s with res0 := total, res1 := 0#32, status := .success, crcR := t.crcR, draws := t.draws }) ∧
    (20 ≤ total.toNat → total.toNat ≤ 65536 → s.fb.bytes 0 4 = tagBytes .gsc2 →
      (s.fb.beWord 8).toInt ≤ 1 ∨ (s.fb.beWord 12).toInt ≤ 1 → ∃ t, exec (.rlyOut total) s = .next t ∧
      t = { s with
        rly := { s.rly with active := false, cnt := 0 }
        res0 := total
        res1 := 0#32
        status := .success
        crcR := t.crcR
        draws := t.draws })

/-- R284, R286: an averaging request with both counts at least 2 and at most ten scans is rewritten, in any relay state, as the
16-byte plain scan request, and starts a cycle that remembers the counts, the request and the rewritten frame. -/
def Obligations.OutboundRewritesTheAveragingRequest : Prop :=
  ∀ (s : State) (total : Word), 20 ≤ total.toNat → total.toNat ≤ 65536 → s.fb.bytes 0 4 = tagBytes .gsc2 →
    2 ≤ (s.fb.beWord 8).toInt → (s.fb.beWord 8).toInt ≤ 10 → 2 ≤ (s.fb.beWord 12).toInt →
    ∃ t body, exec (.rlyOut total) s = .next t ∧
      body = tagBytes .gscn ++ be32 4#32 ++ be32 s.params.gscnScanNum ∧
      t.fb.Holds 0 (body ++ be32 (crc32Msb body)) ∧ s.fb.SameOutside t.fb 0 16 ∧
      t.rly.lastOut.Holds 0 (body ++ be32 (crc32Msb body)) ∧
      t.rly.origReq.len.toNat = total.toNat ∧ t.rly.origReq.bytes.Holds 0 (s.fb.bytes 0 total.toNat) ∧
      t = { s with
        fb := t.fb
        rly := { s.rly with
          active := true
          n := s.fb.beWord 8
          m := s.fb.beWord 12
          cnt := 0
          origReq := t.rly.origReq
          lastOut := t.rly.lastOut }
        res0 := 16#32
        res1 := 1#32
        status := .success
        crcR := t.crcR
        draws := t.draws }

/-- R284's two refusals (U6, U7). -/
def Obligations.OutboundRefusesShortOrLargeRequests : Prop :=
  ∀ (s : State) (total : Word), 4 ≤ total.toNat → total.toNat ≤ 65536 → s.fb.bytes 0 4 = tagBytes .gsc2 →
    (total.toNat < 20 → exec (.rlyOut total) s = .refused .gsc2TooShort) ∧
    (20 ≤ total.toNat → 10 < (s.fb.beWord 8).toInt → 2 ≤ (s.fb.beWord 12).toInt →
      exec (.rlyOut total) s = .refused .tooManyScans)

/-- R282, R290: `RLY.IN` passes every frame while no cycle is active, and every frame that is no scan response; a bad length is
`InvalidParameter`, with `CRC.R` as log entry 6 reads R137 and R61. -/
def Obligations.InboundPassesOtherFrames : Prop :=
  ∀ (s : State) (total : Word),
    (total.toNat < 4 → ∃ t, exec (.rlyIn total) s = .next t ∧
      t = { s with res0 := 0#32, res1 := 0#32, status := .invalidParameter, crcR := t.crcR, draws := t.draws }) ∧
    (65536 < total.toNat →
      exec (.rlyIn total) s = .next { s with res0 := 0#32, res1 := 0#32, status := .invalidParameter }) ∧
    (4 ≤ total.toNat → total.toNat ≤ 65536 → s.rly.active = false ∨ s.fb.bytes 0 4 ≠ tagBytes .gscn →
      ∃ t, exec (.rlyIn total) s = .next t ∧
      t = { s with res0 := total, res1 := 0#32, status := .success, crcR := t.crcR, draws := t.draws })

/-- R290, R358: a scan response whose CRC fails (or that has no trailer) during a cycle discards the frames collected, keeps the
cycle and replays the last transformed request, with status `Success`. -/
def Obligations.InboundCrcFailureReplays : Prop :=
  ∀ (s : State) (total : Word), 4 ≤ total.toNat → total.toNat ≤ 65536 → s.rly.active = true →
    s.fb.bytes 0 4 = tagBytes .gscn →
    (total.toNat = 4 ∨ crc32Msb (s.fb.bytes 0 (total.toNat - 4)) ≠ s.fb.beWord (total.toNat - 4)) →
    ∃ t, exec (.rlyIn total) s = .next t ∧ t.fb.Holds 0 (s.rly.lastOut.bytes 0 16) ∧ s.fb.SameOutside t.fb 0 16 ∧
      t = { s with
        fb := t.fb
        rly := { s.rly with cnt := 0 }
        res0 := 16#32
        res1 := 3#32
        status := .success
        crcR := t.crcR
        draws := t.draws }

/-- R290, R34: while fewer than `N` frames are held, an intact scan response is stored byte for byte in the next slot and the
last transformed request is replayed. -/
def Obligations.InboundStoresAndReplays : Prop :=
  ∀ (s : State) (total : Word) (h : s.rly.cnt < 10), 4 < total.toNat → total.toNat ≤ 65536 → s.rly.active = true →
    s.fb.bytes 0 4 = tagBytes .gscn →
    crc32Msb (s.fb.bytes 0 (total.toNat - 4)) = s.fb.beWord (total.toNat - 4) →
    s.rly.n.toInt ≤ 10 → 2 ≤ s.rly.m.toInt → (s.rly.cnt : Int) + 1 < s.rly.n.toInt →
    ∃ t, exec (.rlyIn total) s = .next t ∧ t.fb.Holds 0 (s.rly.lastOut.bytes 0 16) ∧ s.fb.SameOutside t.fb 0 16 ∧
      (t.rly.slot[s.rly.cnt]).len.toNat = total.toNat ∧
      (t.rly.slot[s.rly.cnt]).bytes.Holds 0 (s.fb.bytes 0 total.toNat) ∧
      (∀ k (hk : k < 10), k ≠ s.rly.cnt → t.rly.slot[k] = s.rly.slot[k]) ∧
      t = { s with
        fb := t.fb
        rly := { s.rly with slot := t.rly.slot, cnt := s.rly.cnt + 1 }
        res0 := 16#32
        res1 := 2#32
        status := .success
        crcR := t.crcR
        draws := t.draws }

/-- R290, R291, R294: the frame that completes the set is averaged with the frames collected before it, in order of arrival; the
averaged frame replaces the start of `FB` and the cycle ends. Where `Average` is not defined on them the model refuses (U8). -/
def Obligations.InboundForwardsTheAveragedFrame : Prop :=
  ∀ (s : State) (total : Word) (av : Option (List Byte)), 4 < total.toNat → total.toNat ≤ 65536 → s.rly.active = true →
    s.fb.bytes 0 4 = tagBytes .gscn →
    crc32Msb (s.fb.bytes 0 (total.toNat - 4)) = s.fb.beWord (total.toNat - 4) →
    2 ≤ s.rly.n.toInt → s.rly.n.toInt ≤ 10 → 2 ≤ s.rly.m.toInt → (s.rly.cnt : Int) + 1 = s.rly.n.toInt →
    average ((s.rly.slot.toList.take s.rly.cnt).map (fun st => st.bytes.bytes 0 st.len.toNat) ++ [s.fb.bytes 0 total.toNat])
      s.rly.m.toNat (s.cfg.getLsbD 0) = av →
    (av = none → exec (.rlyIn total) s = .refused .averageDomain) ∧
    ∀ f, av = some f → ∃ t, exec (.rlyIn total) s = .next t ∧ t.fb.Holds 0 f ∧ s.fb.SameOutside t.fb 0 f.length ∧
      t = { s with
        fb := t.fb
        rly := { s.rly with slot := t.rly.slot, cnt := 0, active := false }
        res0 := BitVec.ofNat 32 f.length
        res1 := 1#32
        status := .success
        crcR := t.crcR
        draws := t.draws }

/-- R292: `RLY.RESET` abandons the cycle and touches nothing else; the remembered request's bytes stay. -/
def Obligations.RelayResetAbandonsTheCycle : Prop :=
  ∀ s : State, exec .rlyReset s =
    .next { s with
      rly := { s.rly with
        active := false, n := 0#32, m := 0#32, cnt := 0, origReq := { s.rly.origReq with len := 0#17 } }
      res0 := 0#32
      res1 := 0#32
      status := .success }

/-- R295: where some sample is no sentinel, the averaged distance is the exact mean of those that are none, truncated toward zero;
it lies between two of them, is itself no sentinel, and the count is theirs. Where all are sentinels the result is one of the
two, no-echo on a tie, and the count is 0. R296: the averaged pulse width is the exact sum over all samples divided by their
number, or with the other divisor by the valid count, 0 without a valid sample. A sample is averaged by both (R297). -/
def Obligations.AveragedDistanceLiesBetweenSamples : Prop :=
  (∀ d valid : List Word, valid = d.filter (fun w => w != 0x80000000#32 && w != 0x7FFFFFFF#32) → valid ≠ [] →
    avgDist d = (BitVec.ofInt 32 (Int.tdiv (valid.map BitVec.toInt).sum valid.length), valid.length)) ∧
  (∀ (w : List Word) (nV : Nat),
    avgPw w nV false = BitVec.ofInt 32 (Int.tdiv (w.map BitVec.toInt).sum w.length) ∧
    (0 < nV → avgPw w nV true = BitVec.ofInt 32 (Int.tdiv (w.map BitVec.toInt).sum nV)) ∧
    avgPw w 0 true = 0#32) ∧
  (∀ (xs : List Sample) (pw : Bool),
    avgSample xs pw =
      ((avgDist (xs.map Prod.fst)).1, avgPw (xs.map Prod.snd) (avgDist (xs.map Prod.fst)).2 pw)) ∧
  ∀ d : List Word,
    ((∃ w ∈ d, w ≠ 0x80000000#32 ∧ w ≠ 0x7FFFFFFF#32) →
      ∃ lo hi, lo ∈ d ∧ hi ∈ d ∧ lo ≠ 0x80000000#32 ∧ lo ≠ 0x7FFFFFFF#32 ∧ hi ≠ 0x80000000#32 ∧ hi ≠ 0x7FFFFFFF#32 ∧
        lo.toInt ≤ (avgDist d).1.toInt ∧ (avgDist d).1.toInt ≤ hi.toInt ∧
        (avgDist d).1 ≠ 0x80000000#32 ∧ (avgDist d).1 ≠ 0x7FFFFFFF#32 ∧
        (avgDist d).2 + d.count 0x80000000#32 + d.count 0x7FFFFFFF#32 = d.length) ∧
    ((∀ w ∈ d, w = 0x80000000#32 ∨ w = 0x7FFFFFFF#32) →
      avgDist d = (if d.count 0x7FFFFFFF#32 ≤ d.count 0x80000000#32 then 0x80000000#32 else 0x7FFFFFFF#32, 0))

/-- R293 to R301: for frames that are all well formed and agree, `Average` is defined, and its output is itself a well-formed
scan frame with the first frame's tag and parameters, `ceil(nPts / M)` points, a matching Length and CRC, no longer than the
first frame, whose sample `(g, e)` is the average over the points of group `g` of the averages over the scans. -/
def Obligations.AverageIsTheTwoStages : Prop :=
  ∀ (frames : List (List Byte)) (m : Nat) (pw : Bool) (v : ScanView) (rest : List ScanView), 1 ≤ m →
    frames.mapM scanView = some (v :: rest) →
    (∀ w ∈ rest, w.nP = v.nP ∧ w.nE = v.nE ∧ w.dc = v.dc ∧ w.nPts = v.nPts) →
    ∃ f u, average frames m pw = some f ∧ scanView f = some u ∧ f.length ≤ v.frame.length ∧
      f.take 4 = v.frame.take 4 ∧ (∀ k, k < v.nP → beAt f (12 + 4 * k) = beAt v.frame (12 + 4 * k)) ∧
      crc32Msb (f.take (f.length - 4)) = beAt f (f.length - 4) ∧
      u.nP = v.nP ∧ u.nE = v.nE ∧ u.dc = v.dc ∧ u.nPts = (v.nPts + m - 1) / m ∧
      ∀ g e, g < u.nPts → e < v.nE → u.sample g e =
        avgSample ((List.range' (g * m) (min m (v.nPts - g * m))).map fun p =>
          avgSample ((v :: rest).map fun w => w.sample p e) pw) pw

/-- R293: which frames have a view, and what the view and its samples are. R294: outside that domain `Average` is undefined: an
ill-formed frame, or two that disagree in `nP`, `nE`, `dc` or `nPts`. -/
def Obligations.AverageIsDefinedOnlyOnCompatibleFrames : Prop :=
  (∀ (f : List Byte) (v : ScanView), scanView f = some v ↔
    v.frame = f ∧ 20 ≤ f.length ∧ f.length = 12 + (beAt f 4).toNat ∧
    beAt f 8 = BitVec.ofNat 32 v.nP ∧ v.nP < 2 ^ 31 ∧ 12 + 4 * v.nP + 4 ≤ f.length - 4 ∧
    ((if 4 < v.nP then beAt f 28 else 0#32) = 0#32 ∧ v.nE = 1 ∨
      (if 4 < v.nP then beAt f 28 else 0#32) = BitVec.ofNat 32 v.nE ∧ 1 ≤ v.nE ∧ v.nE ≤ 4) ∧
    beAt f (12 + 4 * v.nP) = BitVec.ofNat 32 v.nPts ∧ v.nPts ≤ 4000 ∧
    v.dc = (if 8 < v.nP then beAt f 44 else 0#32) ∧ (v.dc = 4#32 ∨ v.dc = 8#32 ∨ v.dc = 7#32) ∧
    16 + 4 * v.nP + v.nPts * v.nE * (if v.dc = 4#32 then 4 else 8) = f.length - 4) ∧
  (∀ (f : List Byte) (v : ScanView) (p e o : Nat), scanView f = some v →
    o = 16 + 4 * v.nP + (p * v.nE + e) * (if v.dc = 4#32 then 4 else 8) →
    v.sample p e = (beAt f o, if v.dc = 4#32 then 0#32 else beAt f (o + 4))) ∧
  (∀ (f : List Byte) (o : Nat), o + 4 ≤ f.length → be32 (beAt f o) = (f.drop o).take 4) ∧
  ∀ (frames : List (List Byte)) (m : Nat) (pw : Bool), frames ≠ [] →
    ((average frames m pw).isSome ↔
      (∀ f ∈ frames, (scanView f).isSome) ∧
      ∀ f ∈ frames, ∀ g ∈ frames, ∀ v w, scanView f = some v → scanView g = some w →
        v.nP = w.nP ∧ v.nE = w.nE ∧ v.dc = w.dc ∧ v.nPts = w.nPts)

/-! ### Frames delivered -/

/-- R92, R96 to R103 with R113: running a frame row is the delivery of that frame, so a well-formed frame of each of the eight
tags completes in every state, with its bytes in `FB[0..total)` and no other byte or component changed. R7, R106: a byte string
that is no such frame is no error, and a step delivers it in the same way; of one longer than the buffer the bytes past it fail
with `InvalidParameter`. That a frame row means its delivery is the model's choice (log entry 2). -/
def Obligations.FramesAreDeliveredByTag : Prop :=
  (∀ (s : State) (l : List Byte) (rest : List HostRequest), s.port = .frame l :: rest →
    (l.length < 12 ∨ l.take 4 ∉
      [[0x47#8, 0x56#8, 0x45#8, 0x52#8], [0x47#8, 0x50#8, 0x52#8, 0x4D#8], [0x53#8, 0x50#8, 0x52#8, 0x4D#8],
        [0x47#8, 0x50#8, 0x49#8, 0x4E#8], [0x53#8, 0x43#8, 0x41#8, 0x4E#8], [0x47#8, 0x53#8, 0x43#8, 0x4E#8],
        [0x47#8, 0x53#8, 0x43#8, 0x32#8], [0x45#8, 0x52#8, 0x52#8, 0x00#8]] ∨ 65536 < l.length) →
    ∃ t, step s = .next t ∧ t.fb.Holds 0 (l.take 65536) ∧ s.fb.SameOutside t.fb 0 (min l.length 65536) ∧
      t = { s with
        port := rest
        fb := t.fb
        res0 := if l = [] then s.res0 else 0#32
        res1 := if l = [] then s.res1 else 0#32
        status := if l = [] then s.status else if l.length ≤ 65536 then .success else .invalidParameter }) ∧
  ∀ (s : State) (n crc : Word) (payload : List Byte) (i : Instr) (tag : List Byte), WellFormed i →
    (i, tag) ∈ [(Instr.tagGver n payload crc, [0x47#8, 0x56#8, 0x45#8, 0x52#8]),
      (.tagGprm n payload crc, [0x47#8, 0x50#8, 0x52#8, 0x4D#8]),
      (.tagSprm n payload crc, [0x53#8, 0x50#8, 0x52#8, 0x4D#8]),
      (.tagGpin n payload crc, [0x47#8, 0x50#8, 0x49#8, 0x4E#8]),
      (.tagScan n payload crc, [0x53#8, 0x43#8, 0x41#8, 0x4E#8]),
      (.tagGscn n payload crc, [0x47#8, 0x53#8, 0x43#8, 0x4E#8]),
      (.tagGsc2 n payload crc, [0x47#8, 0x53#8, 0x43#8, 0x32#8]),
      (.tagErr n payload crc, [0x45#8, 0x52#8, 0x52#8, 0x00#8])] →
    ∃ t, exec i s = .next t ∧ t.fb.Holds 0 (tag ++ be32 n ++ payload ++ be32 crc) ∧
      s.fb.SameOutside t.fb 0 (12 + payload.length) ∧
      t = { s with fb := t.fb, res0 := 0#32, res1 := 0#32, status := .success }

/-! ### Decoding and stepping -/

/-- R108 to R110, R91, R92: decoding the encoding of a well-formed instruction gives it back, every operand at every value. -/
def Obligations.DecodeEncodeGivesTheInstruction : Prop :=
  ∀ i : Instr, WellFormed i → decode (encode i) = .ok i

/-- R110: words of the operation table, written out from R108, decode to the instructions of their rows, and the 12 bytes of a
`"GVER"` request to its frame row. -/
def Obligations.TableWordsDecode : Prop :=
  decode (.op 0x00000000000000090000000A04#104) = .ok (.crcCompute 10#32 9#32) ∧
  decode (.op 0x00000000000000520000000309#104) = .ok (.bufWr 3#32 0x52#32) ∧
  decode (.op 0x00000000000000640000000522#104) = .ok (.cmdSprm 5#32 100#32) ∧
  decode (.op 0x00000000000000010000000235#104) = .ok (.scnGetw 2#32 1#32) ∧
  decode (.op 0x00000000000000000000001440#104) = .ok (.rlyOut 20#32) ∧
  decode (.op 0x0000000000000000FFFFFFFFF1#104) = .ok (.sysCfg 0xFFFFFFFF#32) ∧
  decode (.frame [0x47#8, 0x56#8, 0x45#8, 0x52#8, 0#8, 0#8, 0#8, 0#8, 0x1B#8, 0x39#8, 0xCF#8, 0x64#8]) =
    .ok (.tagGver 0#32 [] 0x1B39CF64#32)

/-- R108 to R110: the operation each of the 36 codes in bits 7:0 names, with its operands from bits 39:8 and 71:40 as they stand;
the operands a format does not use and bits 103:72 are ignored. -/
def Obligations.OperationWordsDecodeByCode : Prop :=
  ∀ w : OpWord,
    (w.extractLsb' 0 8 = 0x00#8 → decode (.op w) = .ok .sysNop) ∧
    (w.extractLsb' 0 8 = 0x01#8 → decode (.op w) = .ok .crcReset) ∧
    (w.extractLsb' 0 8 = 0x02#8 → decode (.op w) = .ok (.crcUpdate (w.extractLsb' 8 32) (w.extractLsb' 40 32))) ∧
    (w.extractLsb' 0 8 = 0x03#8 → decode (.op w) = .ok .crcFinal) ∧
    (w.extractLsb' 0 8 = 0x04#8 → decode (.op w) = .ok (.crcCompute (w.extractLsb' 8 32) (w.extractLsb' 40 32))) ∧
    (w.extractLsb' 0 8 = 0x08#8 → decode (.op w) = .ok (.bufRd (w.extractLsb' 8 32))) ∧
    (w.extractLsb' 0 8 = 0x09#8 → decode (.op w) = .ok (.bufWr (w.extractLsb' 8 32) (w.extractLsb' 40 32))) ∧
    (w.extractLsb' 0 8 = 0x0A#8 → decode (.op w) = .ok (.frmGet32 (w.extractLsb' 8 32))) ∧
    (w.extractLsb' 0 8 = 0x0B#8 → decode (.op w) = .ok (.frmPut32 (w.extractLsb' 8 32) (w.extractLsb' 40 32))) ∧
    (w.extractLsb' 0 8 = 0x10#8 → decode (.op w) = .ok (.frmStamp (w.extractLsb' 8 32))) ∧
    (w.extractLsb' 0 8 = 0x11#8 → decode (.op w) = .ok (.frmVerify (w.extractLsb' 8 32))) ∧
    (w.extractLsb' 0 8 = 0x12#8 → decode (.op w) = .ok (.frmH2n (w.extractLsb' 8 32))) ∧
    (w.extractLsb' 0 8 = 0x13#8 → decode (.op w) = .ok (.frmN2h (w.extractLsb' 8 32))) ∧
    (w.extractLsb' 0 8 = 0x20#8 → decode (.op w) = .ok .cmdGver) ∧
    (w.extractLsb' 0 8 = 0x21#8 → decode (.op w) = .ok (.cmdGprm (w.extractLsb' 8 32))) ∧
    (w.extractLsb' 0 8 = 0x22#8 → decode (.op w) = .ok (.cmdSprm (w.extractLsb' 8 32) (w.extractLsb' 40 32))) ∧
    (w.extractLsb' 0 8 = 0x23#8 → decode (.op w) = .ok (.cmdGpin (w.extractLsb' 8 32))) ∧
    (w.extractLsb' 0 8 = 0x24#8 → decode (.op w) = .ok (.cmdScan (w.extractLsb' 8 32))) ∧
    (w.extractLsb' 0 8 = 0x25#8 → decode (.op w) = .ok (.cmdGscn (w.extractLsb' 8 32))) ∧
    (w.extractLsb' 0 8 = 0x26#8 → decode (.op w) = .ok (.cmdGsc2 (w.extractLsb' 8 32) (w.extractLsb' 40 32))) ∧
    (w.extractLsb' 0 8 = 0x28#8 → decode (.op w) = .ok (.cmdTxdone (w.extractLsb' 8 32))) ∧
    (w.extractLsb' 0 8 = 0x29#8 → decode (.op w) = .ok (.cmdRxdone (w.extractLsb' 8 32))) ∧
    (w.extractLsb' 0 8 = 0x2A#8 → decode (.op w) = .ok (.cmdRdout (w.extractLsb' 8 32))) ∧
    (w.extractLsb' 0 8 = 0x2B#8 → decode (.op w) = .ok (.cmdErrmap (w.extractLsb' 8 32))) ∧
    (w.extractLsb' 0 8 = 0x30#8 → decode (.op w) = .ok (.scnParse (w.extractLsb' 8 32))) ∧
    (w.extractLsb' 0 8 = 0x31#8 → decode (.op w) = .ok .scnClear) ∧
    (w.extractLsb' 0 8 = 0x32#8 → decode (.op w) = .ok .scnInfo) ∧
    (w.extractLsb' 0 8 = 0x33#8 → decode (.op w) = .ok (.scnGetp (w.extractLsb' 8 32))) ∧
    (w.extractLsb' 0 8 = 0x34#8 → decode (.op w) = .ok (.scnGetd (w.extractLsb' 8 32) (w.extractLsb' 40 32))) ∧
    (w.extractLsb' 0 8 = 0x35#8 → decode (.op w) = .ok (.scnGetw (w.extractLsb' 8 32) (w.extractLsb' 40 32))) ∧
    (w.extractLsb' 0 8 = 0x40#8 → decode (.op w) = .ok (.rlyOut (w.extractLsb' 8 32))) ∧
    (w.extractLsb' 0 8 = 0x41#8 → decode (.op w) = .ok (.rlyIn (w.extractLsb' 8 32))) ∧
    (w.extractLsb' 0 8 = 0x42#8 → decode (.op w) = .ok .rlyReset) ∧
    (w.extractLsb' 0 8 = 0xF0#8 → decode (.op w) = .ok .sysReset) ∧
    (w.extractLsb' 0 8 = 0xF1#8 → decode (.op w) = .ok (.sysCfg (w.extractLsb' 8 32))) ∧
    (w.extractLsb' 0 8 = 0xF2#8 → decode (.op w) = .ok .sysRdcfg)

/-- R111: an operation word with a code that R110 does not list ends with `UnknownCommand` and no other state change. -/
def Obligations.ReservedCodesEndWithUnknownCommand : Prop :=
  ∀ (s : State) (w : OpWord) (rest : List HostRequest), s.port = .op w :: rest →
    opcField w ∉ [0x00#8, 0x01#8, 0x02#8, 0x03#8, 0x04#8, 0x08#8, 0x09#8, 0x0A#8, 0x0B#8, 0x10#8, 0x11#8, 0x12#8, 0x13#8,
      0x20#8, 0x21#8, 0x22#8, 0x23#8, 0x24#8, 0x25#8, 0x26#8, 0x28#8, 0x29#8, 0x2A#8, 0x2B#8, 0x30#8, 0x31#8, 0x32#8,
      0x33#8, 0x34#8, 0x35#8, 0x40#8, 0x41#8, 0x42#8, 0xF0#8, 0xF1#8, 0xF2#8] →
    step s = .next { s with port := rest, res0 := 0#32, res1 := 0#32, status := .unknownCommand }

/-- A step takes the host's next request from the port and runs the instruction it decodes to; with no request pending nothing
changes (R8, R71; the port is the model's, log entry 1). -/
def Obligations.StepRunsTheDecodedInstruction : Prop :=
  (∀ (s : State) (r : HostRequest) (rest : List HostRequest) (i : Instr), s.port = r :: rest → decode r = .ok i →
    WellFormed i → step s = exec i { s with port := rest }) ∧
  ∀ s : State, s.port = [] → step s = .next s

/-! ### The whole machine -/

/-- The invariant holds right after reset (R37). -/
def Obligations.ResetMeetsTheInvariant : Prop := State.reset.Inv

/-- Every step keeps the invariant: byte stores in canonical form (R27, R34, R35), reserved bits of `CFG` zero (R23), a Sent cycle
has a class (R200), the string view inside `FB` (R29), the record cleared or populated within its maxima (R32), an active
averaging cycle within R33's bounds with its rewritten request kept. -/
def Obligations.EveryStepKeepsTheInvariant : Prop :=
  ∀ s t : State, s.Inv → step s = .next t → t.Inv

/-- From a state that meets the invariant no step faults: the model's two faults lie outside it (log entry 13). -/
def Obligations.InvariantStatesNeverFault : Prop :=
  ∀ s : State, s.Inv → Safe (step s)

/-- Only six operations can be refused (U1, U4 to U8); every other instruction completes in every state (R359). -/
def Obligations.OnlySixOperationsCanStop : Prop :=
  ∀ (i : Instr) (s : State),
    (∀ total, i ≠ .frmH2n total ∧ i ≠ .frmN2h total ∧ i ≠ .cmdRxdone total ∧ i ≠ .scnParse total ∧
      i ≠ .rlyOut total ∧ i ≠ .rlyIn total) →
    ∃ t, exec i s = .next t

/-- R21, R22: no operation takes `RES0` or `RES1` as an input and no operation reads `STATUS`. -/
def Obligations.NoOperationReadsTheResponse : Prop :=
  ∀ (i : Instr) (s : State) (a b : Word) (k : Status),
    exec i { s with res0 := a, res1 := b, status := k } = exec i s

/-- The "written by" column of R20: each component, those of the relay one by one, is changed only by the operations the table
names (the delivery of a frame writes `FB` as `BUF.WR` does, log entry 2), and none changes the parameters or takes a request. -/
def Obligations.OnlyTheStatedWritersWrite : Prop :=
  ∀ (i : Instr) (s t : State), exec i s = .next t → i ≠ .sysReset →
    t.params = s.params ∧ t.port = s.port ∧
    ((∀ v, i ≠ .sysCfg v) → t.cfg = s.cfg) ∧
    (i ∈ [Instr.sysNop, .sysRdcfg, .scnClear, .scnInfo, .crcReset, .crcFinal, .rlyReset] ∨
        (∃ a b, i ∈ [Instr.crcUpdate a b, .crcCompute a b, .bufRd a, .frmGet32 a, .frmVerify a, .cmdTxdone a, .cmdRdout a,
          .cmdErrmap a, .scnParse a, .scnGetp a, .scnGetd a b, .scnGetw a b, .sysCfg a]) →
      t.fb = s.fb) ∧
    ((∀ a b, i ∉ [Instr.cmdGver, .cmdGprm a, .cmdSprm a b, .cmdGpin a, .cmdScan a, .cmdGscn a, .cmdGsc2 a b, .cmdTxdone a,
        .cmdRxdone a]) → t.csmSt = s.csmSt ∧ t.csmCls = s.csmCls) ∧
    ((∀ a b, i ∉ [Instr.cmdGver, .cmdGprm a, .cmdSprm a b, .cmdGpin a, .cmdScan a, .cmdGscn a, .cmdGsc2 a b, .cmdRxdone a]) →
      t.cv0 = s.cv0 ∧ t.cv1 = s.cv1 ∧ t.cv2 = s.cv2 ∧ t.strOff = s.strOff ∧ t.strLen = s.strLen) ∧
    ((∀ a b, i ∉ [Instr.cmdGscn a, .cmdGsc2 a b, .cmdRxdone a, .scnParse a, .scnClear]) → t.sr = s.sr) ∧
    ((∀ a, i ∉ [Instr.rlyOut a, .rlyIn a, .rlyReset]) → t.rly = s.rly) ∧
    ((∀ a, i ∉ [Instr.rlyOut a, .rlyReset]) →
      t.rly.n = s.rly.n ∧ t.rly.m = s.rly.m ∧ t.rly.origReq = s.rly.origReq) ∧
    ((∀ a, i ≠ .rlyIn a) → t.rly.slot = s.rly.slot) ∧
    ((∀ a, i ≠ .rlyOut a) → t.rly.lastOut = s.rly.lastOut ∧ t.rly.origReq.bytes = s.rly.origReq.bytes) ∧
    ((∀ a b, i ∉ [Instr.crcReset, .crcUpdate a b, .crcFinal, .crcCompute a b, .frmStamp a, .frmVerify a, .cmdGver, .cmdGprm a,
        .cmdSprm a b, .cmdGpin a, .cmdScan a, .cmdGscn a, .cmdGsc2 a b, .cmdRxdone a, .rlyOut a, .rlyIn a]) →
      t.crcR = s.crcR)
end

