-- ==== Sys2Proof/Laws/Bytes.lean ====
section
/-! SUPPORT. The byte-sequence helpers of R12: lengths, the round trip of a word, the word swap as its own inverse. -/

namespace Sys2Proof.Machine

@[simp] theorem be32_length (v : Word) : (be32 v).length = 4 := rfl

@[simp] theorem le32_length (v : Word) : (le32 v).length = 4 := rfl

@[simp] theorem tagBytes_length (t : Tag) : (tagBytes t).length = 4 := by cases t <;> rfl

/-- Distinct tags have distinct strings. -/
theorem tagBytes_injective {t u : Tag} (h : tagBytes t = tagBytes u) : t = u := by
  revert h; cases t <;> cases u <;> decide

/-- The four bytes of `be32 v` make `v` again. -/
theorem wordOf_be32 (v : Word) :
    wordOf (BitVec.ofNat 8 (v.toNat / 2 ^ 24)) (BitVec.ofNat 8 (v.toNat / 2 ^ 16))
      (BitVec.ofNat 8 (v.toNat / 2 ^ 8)) (BitVec.ofNat 8 v.toNat) = v := by
  apply BitVec.eq_of_toNat_eq
  have := v.isLt
  simp only [wordOf, BitVec.toNat_ofNat]
  omega

/-- The four bytes of a word in network order are the ones it was made of. -/
theorem be32_wordOf (b0 b1 b2 b3 : Byte) : be32 (wordOf b0 b1 b2 b3) = [b0, b1, b2, b3] := by
  have h0 := b0.isLt; have h1 := b1.isLt; have h2 := b2.isLt; have h3 := b3.isLt
  simp only [be32, wordOf, BitVec.toNat_ofNat, List.cons.injEq, and_true]
  refine ⟨?_, ?_, ?_, ?_⟩ <;> apply BitVec.eq_of_toNat_eq <;> simp only [BitVec.toNat_ofNat] <;> omega

/-- Two words with the same bytes are equal. -/
theorem be32_injective {v w : Word} (h : be32 v = be32 w) : v = w := by
  have hv := wordOf_be32 v
  have hw := wordOf_be32 w
  simp only [be32, List.cons.injEq, and_true] at h
  rw [← hv, ← hw, h.1, h.2.1, h.2.2.1, h.2.2.2]

@[simp] theorem swapWords_nil : swapWords [] = [] := rfl

@[simp] theorem swapWords_cons4 (a b c d : Byte) (l : List Byte) :
    swapWords (a :: b :: c :: d :: l) = d :: c :: b :: a :: swapWords l := rfl

@[simp] theorem swapWords_length : (l : List Byte) → (swapWords l).length = l.length
  | a :: b :: c :: d :: l => by simp [swapWords_length l]
  | [] => rfl
  | [_] => rfl
  | [_, _] => rfl
  | [_, _, _] => rfl

/-- The word swap is its own inverse (R172). -/
@[simp] theorem swapWords_swapWords : (l : List Byte) → swapWords (swapWords l) = l
  | a :: b :: c :: d :: l => by simp [swapWords_swapWords l]
  | [] => rfl
  | [_] => rfl
  | [_, _] => rfl
  | [_, _, _] => rfl

@[simp] theorem stamped_length (body : List Byte) : (stamped body).length = body.length + 4 := by
  simp [stamped]

theorem flatMap_be32_length (ws : List Word) : (ws.flatMap be32).length = 4 * ws.length := by
  induction ws with
  | nil => rfl
  | cons w ws ih => simp [ih]; omega

@[simp] theorem requestFrame_length (t : Tag) (ws : List Word) :
    (requestFrame t ws).length = 12 + 4 * ws.length := by
  simp only [requestFrame, stamped_length, List.length_append, tagBytes_length, be32_length, flatMap_be32_length]
  omega

@[simp] theorem frameBytes_length (t : Tag) (len : Word) (payload : List Byte) (crc : Word) :
    (frameBytes t len payload crc).length = 12 + payload.length := by
  simp only [frameBytes, List.length_append, tagBytes_length, be32_length]
  omega

/-- A word past the first part of a byte list is a word of the second part. -/
theorem beAt_append_right (a b : List Byte) (off : Nat) : beAt (a ++ b) (a.length + off) = beAt b off := by
  have g : ∀ k, (a ++ b).getD (a.length + k) 0 = b.getD k 0 := fun k => by
    simp [List.getD_eq_getElem?_getD, List.getElem?_append_right]
  simp only [beAt, Nat.add_assoc, g]

/-- A word inside the first part of a byte list. -/
theorem beAt_append_left (a b : List Byte) {off : Nat} (h : off + 4 ≤ a.length) : beAt (a ++ b) off = beAt a off := by
  have g : ∀ k, k < a.length → (a ++ b).getD k 0 = a.getD k 0 := fun k hk => by
    simp [List.getD_eq_getElem?_getD, List.getElem?_append_left hk]
  simp only [beAt]
  rw [g _ (by omega), g _ (by omega), g _ (by omega), g _ (by omega)]

/-- The word a byte list starts with. -/
theorem beAt_be32 (v : Word) (l : List Byte) : beAt (be32 v ++ l) 0 = v := wordOf_be32 v

/-- A word that stands after a prefix of a byte list. -/
theorem beAt_append_be32 (a : List Byte) (v : Word) (l : List Byte) : beAt (a ++ (be32 v ++ l)) a.length = v := by
  have := beAt_append_right a (be32 v ++ l) 0
  rw [Nat.add_zero] at this
  rw [this, beAt_be32]

/-- A word inside a list that is dropped or cut elsewhere. -/
theorem beAt_take (a : List Byte) {off n : Nat} (h : off + 4 ≤ n) : beAt (a.take n) off = beAt a off := by
  have g : ∀ k, k < n → (a.take n).getD k 0 = a.getD k 0 := fun k hk => by
    simp [List.getD_eq_getElem?_getD, List.getElem?_take_of_lt hk]
  simp only [beAt]
  rw [g _ (by omega), g _ (by omega), g _ (by omega), g _ (by omega)]

theorem beAt_drop (a : List Byte) (off n : Nat) : beAt (a.drop n) off = beAt a (n + off) := by
  have g : ∀ k, (a.drop n).getD k 0 = a.getD (n + k) 0 := fun k => by
    simp [List.getD_eq_getElem?_getD]
  simp only [beAt, Nat.add_assoc, g]

end Sys2Proof.Machine
end

