-- ==== Sys2Proof/Laws/Operands.lean ====
section
/-! SUPPORT. The operand checks as propositions about natural numbers (R61, R165, R170, R284), and the control register's mask
(R23). -/

namespace Sys2Proof.Machine

/-- The capacity check of R61. -/
@[simp] theorem inBuffer_iff (off width : Nat) : inBuffer off width = true ↔ off + width ≤ 65536 :=
  decide_eq_true_iff

/-- The length check of `FRM.STAMP`, `FRM.VERIFY` and `CMD.RXDONE` (R165, R210). -/
@[simp] theorem frameLengthOk_iff (total : Nat) : frameLengthOk total = true ↔ 4 < total ∧ total ≤ 65536 :=
  decide_eq_true_iff

/-- The length check of `RLY.OUT` and `RLY.IN` (R284, R290). -/
@[simp] theorem relayLengthOk_iff (total : Nat) : relayLengthOk total = true ↔ 4 ≤ total ∧ total ≤ 65536 :=
  decide_eq_true_iff

/-- The region check of the conversions (R170). -/
@[simp] theorem regionOk_iff (total : Nat) : regionOk total = true ↔ 4 ≤ total ∧ (total - 4) % 4 = 0 :=
  decide_eq_true_iff

/-- Masking twice is masking once (R23). -/
@[simp] theorem cfgMask_cfgMask (v : Word) : cfgMask (cfgMask v) = cfgMask v := by
  simp only [cfgMask, BitVec.and_assoc]
  rfl

end Sys2Proof.Machine
end

