-- ==== Sys2Proof/Laws/Scan.lean ====
section
/-! SUPPORT. What `ParseScan` answers (R251), and the record it fills (R30, R32). -/

namespace Sys2Proof.Machine

/-- The parameter words by index (R104, R251). -/
@[simp] theorem scanParams_getElem (rd : Nat → Word) (nP k : Nat) (h : k < 10) :
    (scanParams rd nP)[k] = if k < min nP 10 then rd (12 + 4 * k) else 0#32 := by
  simp [scanParams, h]

/-- The sign of a small natural number held in a word. -/
theorem s32_ofNat {n : Nat} (h : n < 2 ^ 31) : s32 (BitVec.ofNat 32 n) = n := by
  rw [s32, BitVec.toInt_eq_toNat_cond, BitVec.toNat_ofNat]
  have : n % 2 ^ 32 = n := Nat.mod_eq_of_lt (by omega)
  rw [this, if_pos (by omega)]

/-- A word that is not negative is its natural number. -/
theorem s32_toNat {w : Word} (h : 0 ≤ s32 w) : (s32 w).toNat = w.toNat := by
  rw [s32, BitVec.toInt_eq_toNat_cond] at *
  have := w.isLt
  split at h <;> split <;> omega

/-- The bytes per sample of a data-content code (R260). -/
theorem bytesPerSample_cases (dc : Word) : bytesPerSample dc = 0 ∨ bytesPerSample dc = 4 ∨ bytesPerSample dc = 8 := by
  unfold bytesPerSample
  split
  · exact .inr (.inl rfl)
  · split
    · exact .inr (.inr rfl)
    · exact .inl rfl

/-- All that a successful parse says: the tests it passed and the record it filled (R251). -/
theorem parseScan_parsed {fb : Memory} {total : Nat} {sr : ScanRecord} (h : parseScan fb total = .parsed sr) :
    ∃ nP nE nPts bps : Nat, 16 ≤ total ∧ s32 (fb.leWord 8) = nP ∧ 12 + 4 * nP + 4 ≤ total - 4 ∧
      echoCount (scanParams fb.leWord nP) = nE ∧ nE ≤ 4 ∧ s32 (fb.leWord (12 + 4 * nP)) = nPts ∧ nPts ≤ 4000 ∧
      bps = bytesPerSample (scanParams fb.leWord nP)[8] ∧ 16 + 4 * nP + nPts * nE * bps ≤ total - 4 ∧
      sr = {
        npar := min nP 10
        param := scanParams fb.leWord nP
        npts := nPts
        nech := nE
        dist := (List.range (nPts * nE)).map fun k => if bps = 0 then 0#32 else fb.leWord (16 + 4 * nP + k * bps)
        pw := (List.range (nPts * nE)).map fun k => if bps = 8 then fb.leWord (16 + 4 * nP + k * bps + 4) else 0#32 } := by
  have e1 : Config.maxEchoes = 4 := rfl
  have e2 : Config.maxPoints = 4000 := rfl
  simp only [parseScan] at h
  split at h
  · cases h
  split at h
  · cases h
  split at h
  · cases h
  split at h
  · cases h
  split at h
  · cases h
  split at h
  · cases h
  rename_i h1 h2 h3 h4 h5 h6
  cases h
  have e : 12 + 4 * (s32 (fb.leWord 8)).toNat + 4 = 16 + 4 * (s32 (fb.leWord 8)).toNat := by omega
  refine ⟨(s32 (fb.leWord 8)).toNat, (echoCount (scanParams fb.leWord (s32 (fb.leWord 8)).toNat)).toNat,
    (s32 (fb.leWord (12 + 4 * (s32 (fb.leWord 8)).toNat))).toNat, _, by omega, by omega, by omega, by omega, by omega,
    by omega, by omega, rfl, ?_, ?_⟩
  · rw [← e]
    omega
  · rw [e]

/-- A parse whose tests pass fills the record (R251). -/
theorem parseScan_next {fb : Memory} {total nP nE nPts bps : Nat} (h1 : 16 ≤ total) (h2 : s32 (fb.leWord 8) = nP)
    (h3 : 12 + 4 * nP + 4 ≤ total - 4) (h4 : echoCount (scanParams fb.leWord nP) = nE) (h5 : nE ≤ 4)
    (h6 : s32 (fb.leWord (12 + 4 * nP)) = nPts) (h7 : nPts ≤ 4000)
    (h8 : bps = bytesPerSample (scanParams fb.leWord nP)[8]) (h9 : 16 + 4 * nP + nPts * nE * bps ≤ total - 4) :
    parseScan fb total = .parsed {
      npar := min nP 10
      param := scanParams fb.leWord nP
      npts := nPts
      nech := nE
      dist := (List.range (nPts * nE)).map fun k => if bps = 0 then 0#32 else fb.leWord (16 + 4 * nP + k * bps)
      pw := (List.range (nPts * nE)).map fun k => if bps = 8 then fb.leWord (16 + 4 * nP + k * bps + 4) else 0#32 } := by
  subst h8
  have e : 12 + 4 * nP + 4 = 16 + 4 * nP := by omega
  have e1 : Config.maxEchoes = 4 := rfl
  have e2 : Config.maxPoints = 4000 := rfl
  simp only [parseScan, h2, h4, h6, Int.toNat_natCast, e]
  rw [if_neg (by omega), if_neg (by omega), if_neg (by omega), if_neg (by omega), if_neg (by omega), if_neg (by omega)]

/-- A parse that gets as far as the counts and finds one too large overflows (R251). -/
theorem parseScan_overflow {fb : Memory} {total nP : Nat} (h1 : 16 ≤ total) (h2 : s32 (fb.leWord 8) = nP)
    (h3 : 12 + 4 * nP + 4 ≤ total - 4)
    (h4 : 4 < echoCount (scanParams fb.leWord nP) ∨ 4000 < s32 (fb.leWord (12 + 4 * nP))) :
    parseScan fb total = .overflow := by
  have e1 : Config.maxEchoes = 4 := rfl
  have e2 : Config.maxPoints = 4000 := rfl
  simp only [parseScan, h2, Int.toNat_natCast]
  rw [if_neg (by omega), if_neg (by omega), if_neg (by omega), if_pos (by omega)]

/-- The record of a successful parse is a populated one (R32). -/
theorem parseScan_wf {fb : Memory} {total : Nat} {sr : ScanRecord} (h : parseScan fb total = .parsed sr) : sr.wf := by
  obtain ⟨nP, nE, nPts, bps, _, _, _, hE, hE4, hp, hp4, _, _, rfl⟩ := parseScan_parsed h
  have h0 : nE ≠ 0 := by
    rintro rfl
    unfold echoCount at hE
    split at hE
    · omega
    · rename_i hne
      exact hne (BitVec.eq_of_toInt_eq (by simpa [s32] using hE))
  refine .inr ⟨Nat.min_le_right _ _, hp4, Nat.one_le_iff_ne_zero.2 h0, hE4, by simp, by simp, ?_⟩
  intro k hk hm
  simp only at hm ⊢
  rw [scanParams_getElem, if_neg (by omega)]

/-- `SCN.PARSE` inside the buffer where the parser succeeds (R252). -/
theorem execScnParse_parsed (s : State) (total : Word) {sr : ScanRecord} (h : total.toNat ≤ 65536)
    (hp : parseScan s.fb total.toNat = .parsed sr) :
    execScnParse total s = .next ({ s with sr := sr }.succeed (BitVec.ofNat 32 sr.npts) sr.counts) := by
  rw [execScnParse, if_pos (by simpa using h), hp]

/-- `SCN.PARSE` inside the buffer where a count is too large (R252). -/
theorem execScnParse_overflow (s : State) (total : Word) (h : total.toNat ≤ 65536)
    (hp : parseScan s.fb total.toNat = .overflow) :
    execScnParse total s = .next ({ s with sr := ScanRecord.cleared }.raise .bufferOverflow 0#32) := by
  rw [execScnParse, if_pos (by simpa using h), hp]

/-- `SCN.PARSE` inside the buffer on a payload the document does not define (U4). -/
theorem execScnParse_refused (s : State) (total : Word) (h : total.toNat ≤ 65536)
    (hp : parseScan s.fb total.toNat = .undefined) : execScnParse total s = .refused .scanPayload := by
  rw [execScnParse, if_pos (by simpa using h), hp]

/-- The cleared record is well formed, and reads 0 everywhere (R32). -/
theorem ScanRecord.cleared_wf : ScanRecord.cleared.wf := .inl rfl

@[simp] theorem ScanRecord.cleared_distAt (p e : Nat) : ScanRecord.cleared.distAt p e = 0#32 := by
  simp [distAt, cleared]

@[simp] theorem ScanRecord.cleared_pwAt (p e : Nat) : ScanRecord.cleared.pwAt p e = 0#32 := by
  simp [pwAt, cleared]

/-- A sample inside the record is the stored one (R30). -/
theorem ScanRecord.distAt_inside (sr : ScanRecord) {p e : Nat} (hp : p < sr.npts) (he : e < sr.nech) :
    sr.distAt p e = sr.dist.getD (p * sr.nech + e) 0#32 := if_pos ⟨hp, he⟩

/-- A sample outside the record is 0 (R32). -/
theorem ScanRecord.distAt_outside (sr : ScanRecord) {p e : Nat} (h : ¬(p < sr.npts ∧ e < sr.nech)) :
    sr.distAt p e = 0#32 := if_neg h

/-- A pulse width inside the record is the stored one (R30). -/
theorem ScanRecord.pwAt_inside (sr : ScanRecord) {p e : Nat} (hp : p < sr.npts) (he : e < sr.nech) :
    sr.pwAt p e = sr.pw.getD (p * sr.nech + e) 0#32 := if_pos ⟨hp, he⟩

/-- A pulse width outside the record is 0 (R32). -/
theorem ScanRecord.pwAt_outside (sr : ScanRecord) {p e : Nat} (h : ¬(p < sr.npts ∧ e < sr.nech)) :
    sr.pwAt p e = 0#32 := if_neg h

/-- The position of a sample inside the record. -/
theorem sample_position {p e npts nech : Nat} (hp : p < npts) (he : e < nech) : p * nech + e < npts * nech := by
  have : (p + 1) * nech ≤ npts * nech := Nat.mul_le_mul_right _ hp
  rw [Nat.succ_mul] at this
  omega

/-- The counts word of `SCN.PARSE` and `SCN.INFO` (R252, R256). -/
theorem ScanRecord.counts_eq {sr : ScanRecord} (h1 : sr.npar ≤ 10) (h2 : sr.nech ≤ 4) :
    sr.counts = BitVec.ofNat 32 (sr.npar * 256 + sr.nech) := by
  unfold counts
  generalize sr.npar = a at *
  generalize sr.nech = b at *
  interval_cases a <;> interval_cases b <;> rfl

end Sys2Proof.Machine
end

