-- ==== Sys2Proof/Laws/Average.lean ====
section
/-! SUPPORT. What a view and an average are (R293, R294, R301): the facts about a frame that has a view, and the length of the
averaged frame. -/

namespace Sys2Proof.Machine

/-- All that the existence of a view says of a frame (R293). -/
theorem scanView_some {f : List Byte} {v : ScanView} (h : scanView f = some v) :
    v.frame = f ∧ 20 ≤ f.length ∧ f.length = 12 + (beAt f 4).toNat ∧ s32 (beAt f 8) = v.nP ∧
      s32 (beAt f v.offPts) = v.nPts ∧ v.nPts ≤ 4000 ∧ echoCount (scanParams (beAt f) v.nP) = v.nE ∧ 1 ≤ v.nE ∧ v.nE ≤ 4 ∧
      v.dc = (scanParams (beAt f) v.nP)[8] ∧ v.bps ≠ 0 ∧ v.offData + v.nPts * v.nE * v.bps = f.length - 4 := by
  have e1 : Config.maxEchoes = 4 := rfl
  have e2 : Config.maxPoints = 4000 := rfl
  simp only [scanView] at h
  split at h
  · cases h
  split at h
  · cases h
  split at h
  · cases h
  split at h
  · cases h
  split at h
  · cases h
  split at h
  · cases h
  rename_i h1 h2 h3 h4 h5 h6
  have a1 : 20 ≤ f.length := by omega
  have a2 : f.length = 12 + (beAt f 4).toNat := by omega
  have a3 : s32 (beAt f 8) = ((s32 (beAt f 8)).toNat : Int) := by omega
  obtain ⟨b1, b2⟩ := not_or.1 h3
  obtain ⟨b3, b4⟩ := not_or.1 h4
  have b5 := not_lt.1 b1
  have a4 := (Int.toNat_of_nonneg (not_lt.1 b3)).symm
  have a5 := Int.toNat_le.2 (not_lt.1 b4)
  have a6 := (Int.toNat_of_nonneg (le_trans Int.one_nonneg b5)).symm
  have a7 := (Int.le_toNat (le_trans Int.one_nonneg b5)).2 b5
  have a8 := Int.toNat_le.2 (not_lt.1 b2)
  rw [Option.some.injEq] at h
  subst h
  exact ⟨rfl, a1, a2, a3, a4, a5, a6, a7, a8, rfl, h5, Decidable.not_not.1 h6⟩

/-- A frame whose tests all pass has the view the rule describes (R293). -/
theorem scanView_eq {f : List Byte} {v : ScanView} (h0 : v.frame = f) (h1 : 20 ≤ f.length)
    (h2 : f.length = 12 + (beAt f 4).toNat) (h3 : s32 (beAt f 8) = v.nP) (h4 : s32 (beAt f v.offPts) = v.nPts)
    (h5 : v.nPts ≤ 4000) (h6 : echoCount (scanParams (beAt f) v.nP) = v.nE) (h7 : 1 ≤ v.nE) (h8 : v.nE ≤ 4)
    (h9 : v.dc = (scanParams (beAt f) v.nP)[8]) (h10 : v.bps ≠ 0)
    (h11 : v.offData + v.nPts * v.nE * v.bps = f.length - 4) : scanView f = some v := by
  have e1 : Config.maxEchoes = 4 := rfl
  have e2 : Config.maxPoints = 4000 := rfl
  have e3 : v.offPts = 12 + 4 * v.nP := rfl
  have e4 : v.offData = 12 + 4 * v.nP + 4 := rfl
  rw [e3] at h4
  rw [e4] at h11
  rw [ScanView.bps, h9] at h10 h11
  obtain ⟨frame, nP, nE, nPts, dc⟩ := v
  simp only at *
  subst h0
  rw [h9]
  have c4 : ¬((nPts : Int) < 0 ∨ (nPts : Int) > Config.maxPoints) := by
    clear h2 h3 h4 h6 h11
    omega
  have c3 : ¬((nE : Int) < 1 ∨ (nE : Int) > Config.maxEchoes) := by
    clear h2 h3 h4 h6 h11
    omega
  simp only [scanView, h3, h4, h6, Int.toNat_natCast]
  rw [if_neg (by omega), if_neg (by omega), if_neg c3, if_neg c4, if_neg h10, if_neg (not_not.2 h11)]

/-- The number of groups never exceeds the number of points (R298). -/
theorem ceilDiv_le {a b : Nat} (h : 1 ≤ b) : ceilDiv a b ≤ a := by
  unfold ceilDiv
  rcases Nat.eq_zero_or_pos a with rfl | ha
  · rw [Nat.div_eq_of_lt (by omega)]
  · calc (a + b - 1) / b ≤ (a * b) / b := by
          apply Nat.div_le_div_right
          have : a * b = (a - 1) * b + b := by
            rw [← Nat.succ_mul]
            congr 1
            omega
          have h2 : a - 1 ≤ (a - 1) * b := Nat.le_mul_of_pos_right _ (by omega)
          omega
      _ = a := Nat.mul_div_cancel _ (by omega)

/-- Average is defined on the views of its frames when they agree (R294). -/
theorem average_eq {frames : List (List Byte)} {v : ScanView} {rest : List ScanView} (m : Nat) (pw : Bool)
    (h : frames.mapM scanView = some (v :: rest)) (ha : rest.all v.agrees = true) :
    average frames m pw = some (reserialise v
      (stageB (stageA (v :: rest) v.nPts v.nE pw) m (ceilDiv v.nPts m) v.nE pw) (ceilDiv v.nPts m)) := by
  simp only [average, h, ha, if_true]

/-- What a defined average was made from (R294). -/
theorem average_some {frames : List (List Byte)} {m : Nat} {pw : Bool} {f : List Byte} (h : average frames m pw = some f) :
    ∃ v rest, frames.mapM scanView = some (v :: rest) ∧ rest.all v.agrees = true ∧
      f = reserialise v (stageB (stageA (v :: rest) v.nPts v.nE pw) m (ceilDiv v.nPts m) v.nE pw) (ceilDiv v.nPts m) := by
  unfold average at h
  split at h
  · cases h
  · cases h
  · rename_i v rest hv
    split at h
    · rename_i ha
      exact ⟨v, rest, hv, ha, by simpa using h.symm⟩
    · cases h

@[simp] theorem sampleBytes_length {bps : Nat} (h : bps = 4 ∨ bps = 8) (x : Sample) : (sampleBytes bps x).length = bps := by
  unfold sampleBytes
  rcases h with rfl | rfl <;> rfl

/-- The bytes of a row of samples. -/
theorem row_bytes_length {bps : Nat} (h : bps = 4 ∨ bps = 8) (row : List Sample) :
    (row.flatMap (sampleBytes bps)).length = row.length * bps := by
  induction row with
  | nil => simp
  | cons x row ih =>
    rw [List.flatMap_cons, List.length_append, ih, sampleBytes_length h, List.length_cons, Nat.succ_mul, Nat.add_comm]

/-- The bytes of rows of samples, all of the same number of echoes. -/
theorem rows_bytes_length {bps n : Nat} (h : bps = 4 ∨ bps = 8) (rows : List (List Sample))
    (hr : ∀ row ∈ rows, row.length = n) :
    (rows.flatMap fun row => row.flatMap (sampleBytes bps)).length = rows.length * n * bps := by
  induction rows with
  | nil => simp
  | cons x rows ih =>
    rw [List.flatMap_cons, List.length_append, ih fun row hm => hr row (List.mem_cons_of_mem _ hm), row_bytes_length h,
      hr x (List.mem_cons_self ..), List.length_cons, Nat.succ_mul, Nat.add_mul, Nat.add_comm]

/-- The rows of the decimated scan (R298). -/
theorem stageB_shape (rows : List (List Sample)) (m nOut nE : Nat) (pw : Bool) :
    (stageB rows m nOut nE pw).length = nOut ∧ ∀ row ∈ stageB rows m nOut nE pw, row.length = nE := by
  refine ⟨by simp [stageB], fun row h => ?_⟩
  simp only [stageB, List.mem_map] at h
  obtain ⟨g, _, rfl⟩ := h
  simp

/-- The bytes per sample of a view (R293). -/
theorem scanView_bps {f : List Byte} {v : ScanView} (h : scanView f = some v) : v.bps = 4 ∨ v.bps = 8 := by
  have := (scanView_some h).2.2.2.2.2.2.2.2.2.2.1
  rcases bytesPerSample_cases v.dc with h | h
  · exact absurd h this
  · exact h

/-- The length of the re-serialised frame (R301). -/
theorem reserialise_length {g : List Byte} {v : ScanView} (h : scanView g = some v) (rows : List (List Sample)) (nOut : Nat)
    (h1 : rows.length = nOut) (h2 : ∀ row ∈ rows, row.length = v.nE) :
    (reserialise v rows nOut).length = v.offData + nOut * v.nE * v.bps + 4 := by
  have hb := scanView_bps h
  obtain ⟨e, h20, _, _, _, _, _, _, _, _, _, hl⟩ := scanView_some h
  have e4 : v.offData = v.offPts + 4 := rfl
  have e5 : v.offPts = 12 + 4 * v.nP := rfl
  have hr := rows_bytes_length hb rows h2
  rw [h1] at hr
  simp only [reserialise, stamped_length, List.length_append, List.length_take, List.length_drop, be32_length, hr, e]
  omega

/-- The averaged frame is no longer than the first frame of the cycle (R301). -/
theorem average_length {g : List Byte} {frames : List (List Byte)} {m : Nat} {pw : Bool} {f : List Byte} (hm : 1 ≤ m)
    (h : average (g :: frames) m pw = some f) : f.length ≤ g.length := by
  obtain ⟨v, rest, hv, _, rfl⟩ := average_some h
  have hg : scanView g = some v := by
    simp only [List.mapM_cons] at hv
    cases hs : scanView g with
    | none => simp [hs] at hv
    | some w =>
      rw [hs] at hv
      cases hr : frames.mapM scanView with
      | none => simp [hr] at hv
      | some l =>
        simp [hr] at hv
        rw [hv.1]
  have hl := (scanView_some hg).2.2.2.2.2.2.2.2.2.2.2
  have hs := stageB_shape (stageA (v :: rest) v.nPts v.nE pw) m (ceilDiv v.nPts m) v.nE pw
  rw [reserialise_length hg _ _ hs.1 hs.2]
  have h1 : ceilDiv v.nPts m * v.nE * v.bps ≤ v.nPts * v.nE * v.bps :=
    Nat.mul_le_mul_right _ (Nat.mul_le_mul_right _ (ceilDiv_le hm))
  have h20 := (scanView_some hg).2.1
  omega

/-- Flattening rows of equal length keeps the samples row by row. -/
theorem flatten_getD {n : Nat} (rows : List (List Sample)) (hr : ∀ row ∈ rows, row.length = n) (x : Sample) {g e : Nat}
    (hg : g < rows.length) (he : e < n) : rows.flatten.getD (g * n + e) x = (rows.getD g []).getD e x := by
  induction rows generalizing g with
  | nil => simp at hg
  | cons row rows ih =>
    have hl := hr row (List.mem_cons_self ..)
    cases g with
    | zero =>
      simp [List.getD_eq_getElem?_getD, List.getElem?_append_left (show e < row.length by omega)]
    | succ g =>
      have := ih (fun r h => hr r (List.mem_cons_of_mem _ h)) (g := g) (by simpa using hg)
      have e1 : (g + 1) * n + e = row.length + (g * n + e) := by rw [Nat.succ_mul]; omega
      rw [e1, List.flatten_cons]
      simp only [List.getD_eq_getElem?_getD] at this ⊢
      rw [List.getElem?_append_right (by omega), Nat.add_sub_cancel_left, this]
      rfl

/-- The words of the bytes of a list of samples (R301). -/
theorem beAt_samples {bps : Nat} (h : bps = 4 ∨ bps = 8) (xs : List Sample) {k : Nat} (hk : k < xs.length) (l : List Byte) :
    beAt (xs.flatMap (sampleBytes bps) ++ l) (k * bps) = (xs.getD k (0#32, 0#32)).1 ∧
      (bps = 8 → beAt (xs.flatMap (sampleBytes bps) ++ l) (k * bps + 4) = (xs.getD k (0#32, 0#32)).2) := by
  induction xs generalizing k with
  | nil => simp at hk
  | cons x xs ih =>
    have hx := sampleBytes_length h x
    rw [List.flatMap_cons, List.append_assoc]
    cases k with
    | zero =>
      rw [Nat.zero_mul]
      refine ⟨?_, fun h8 => ?_⟩
      · rcases h with rfl | rfl
        · exact beAt_be32 _ _
        · rw [sampleBytes, if_pos rfl, List.append_assoc]
          exact beAt_be32 _ _
      · subst h8
        rw [sampleBytes, if_pos rfl, List.append_assoc]
        exact beAt_append_be32 (be32 x.1) x.2 _
    | succ k =>
      have := ih (k := k) (by simpa using hk)
      have e1 : (k + 1) * bps = (sampleBytes bps x).length + k * bps := by rw [hx, Nat.succ_mul]; omega
      rw [e1, Nat.add_assoc, beAt_append_right, beAt_append_right]
      exact this

end Sys2Proof.Machine
end

