-- ==== Sys2Proof/Laws/Memory.lean ====
section
/-! SUPPORT. Byte stores: a read after a write (R71), a write leaves every other byte alone (R69), and every operation keeps the
canonical form. -/

namespace Sys2Proof.Machine

theorem cellLookup_insert_same (cs : List Host.Cell) (a : Nat) (b : Byte) :
    cellLookup (cellInsert cs a b) a = some b := by
  induction cs with
  | nil => simp [cellInsert, cellLookup]
  | cons c cs ih =>
    obtain ⟨x, d⟩ := c
    simp only [cellInsert]
    split
    · simp [cellLookup]
    · split
      · simp [cellLookup]
      · simp only [cellLookup]
        rw [if_neg (by omega), ih]

theorem cellLookup_insert_other (cs : List Host.Cell) {a x : Nat} (b : Byte) (h : x ≠ a) :
    cellLookup (cellInsert cs a b) x = cellLookup cs x := by
  induction cs with
  | nil => simp [cellInsert, cellLookup, Ne.symm h]
  | cons c cs ih =>
    obtain ⟨y, d⟩ := c
    simp only [cellInsert]
    split
    · simp [cellLookup, Ne.symm h]
    · split
      · rename_i _ hy
        subst hy
        simp [cellLookup, Ne.symm h]
      · simp only [cellLookup, ih]

@[simp] theorem Memory.write_draw (m : Memory) (a : Nat) (b : Byte) : (m.write a b).draw = m.draw := rfl

@[simp] theorem Memory.read_write_same (m : Memory) (a : Nat) (b : Byte) : (m.write a b).read a = b := by
  simp [Memory.read, Memory.write, cellLookup_insert_same]

theorem Memory.read_write_other (m : Memory) {a x : Nat} (b : Byte) (h : x ≠ a) :
    (m.write a b).read x = m.read x := by
  simp [Memory.read, Memory.write, cellLookup_insert_other _ _ h]

@[simp] theorem Memory.writeBytes_nil (m : Memory) (a : Nat) : m.writeBytes a [] = m := rfl

@[simp] theorem Memory.writeBytes_cons (m : Memory) (a : Nat) (b : Byte) (l : List Byte) :
    m.writeBytes a (b :: l) = (m.write a b).writeBytes (a + 1) l := rfl

/-- A byte outside the written ones is unchanged. -/
theorem Memory.read_writeBytes_outside (m : Memory) (a : Nat) (l : List Byte) {x : Nat}
    (h : ¬(a ≤ x ∧ x < a + l.length)) : (m.writeBytes a l).read x = m.read x := by
  induction l generalizing m a with
  | nil => rfl
  | cons b l ih =>
    simp only [List.length_cons] at h
    rw [writeBytes_cons, ih _ _ (by omega), m.read_write_other b (by omega)]

/-- A written byte reads as written. -/
theorem Memory.read_writeBytes_inside (m : Memory) (a : Nat) (l : List Byte) {k : Nat} (h : k < l.length) :
    (m.writeBytes a l).read (a + k) = l[k] := by
  induction l generalizing m a k with
  | nil => simp at h
  | cons b l ih =>
    rw [writeBytes_cons]
    cases k with
    | zero => rw [Nat.add_zero, read_writeBytes_outside _ _ _ (by omega)]; simp
    | succ k =>
      rw [show a + (k + 1) = a + 1 + k by omega, ih _ _ (by simpa using h)]
      simp

@[simp] theorem Memory.bytes_length (m : Memory) (a n : Nat) : (m.bytes a n).length = n := by
  simp [Memory.bytes]

@[simp] theorem Memory.getElem_bytes (m : Memory) (a n k : Nat) (h : k < (m.bytes a n).length) :
    (m.bytes a n)[k] = m.read (a + k) := by
  simp [Memory.bytes]

/-- Two stores that read alike on a range have the same bytes there. -/
theorem Memory.bytes_congr {m m' : Memory} {a n : Nat} (h : ∀ x, a ≤ x → x < a + n → m'.read x = m.read x) :
    m'.bytes a n = m.bytes a n := by
  apply List.ext_getElem (by simp)
  intro k h1 h2
  simp only [getElem_bytes]
  rw [bytes_length] at h1
  exact h _ (by omega) (by omega)

/-- `MemRead` after `MemWrite` of the same range. -/
@[simp] theorem Memory.bytes_writeBytes_same (m : Memory) (a : Nat) (l : List Byte) :
    (m.writeBytes a l).bytes a l.length = l := by
  apply List.ext_getElem (by simp)
  intro k h1 h2
  rw [getElem_bytes, read_writeBytes_inside _ _ _ h2]

/-- `MemRead` of a range a `MemWrite` does not touch. -/
theorem Memory.bytes_writeBytes_disjoint (m : Memory) (a : Nat) (l : List Byte) {b n : Nat}
    (h : b + n ≤ a ∨ a + l.length ≤ b) : (m.writeBytes a l).bytes b n = m.bytes b n :=
  bytes_congr fun _ _ _ => read_writeBytes_outside _ _ _ (by omega)

/-- A range split in two. -/
theorem Memory.bytes_add (m : Memory) (a n k : Nat) : m.bytes a (n + k) = m.bytes a n ++ m.bytes (a + n) k := by
  apply List.ext_getElem (by simp)
  intro j h1 h2
  rw [List.getElem_append]
  split
  · simp
  · rename_i h
    simp only [bytes_length] at h
    simp only [getElem_bytes, bytes_length]
    congr 1
    omega

/-- The four bytes of a store's word are its network-order bytes. -/
theorem Memory.be32_beWord (m : Memory) (a : Nat) : be32 (m.beWord a) = m.bytes a 4 := by
  rw [Memory.beWord, be32_wordOf]
  rfl

/-- A word just written in network order reads back. -/
@[simp] theorem Memory.beWord_writeBytes_be32 (m : Memory) (a : Nat) (v : Word) :
    (m.writeBytes a (be32 v)).beWord a = v := by
  apply be32_injective
  rw [be32_beWord]
  exact m.bytes_writeBytes_same a (be32 v)

/-- A word read from a store is the word of its bytes. -/
theorem Memory.beAt_bytes (m : Memory) (a n off : Nat) (h : off + 4 ≤ n) :
    beAt (m.bytes a n) off = m.beWord (a + off) := by
  have g : ∀ k, k < n → (m.bytes a n).getD k 0 = m.read (a + k) := fun k hk => by
    rw [List.getD_eq_getElem _ _ (by simpa using hk), getElem_bytes]
  simp only [beAt, beWord]
  rw [g _ (by omega), g _ (by omega), g _ (by omega), g _ (by omega)]
  rfl

/-! ### The canonical form -/

theorem cellInsert_mem {cs : List Host.Cell} {a : Nat} {b : Byte} {c : Host.Cell}
    (h : c ∈ cellInsert cs a b) : c = (a, b) ∨ c ∈ cs := by
  induction cs with
  | nil => simpa [cellInsert] using h
  | cons d cs ih =>
    obtain ⟨x, e⟩ := d
    simp only [cellInsert] at h
    split at h
    · simpa using h
    · split at h
      · rcases List.mem_cons.1 h with h | h
        · exact .inl h
        · exact .inr (List.mem_cons_of_mem _ h)
      · rcases List.mem_cons.1 h with h | h
        · exact .inr (by simp [h])
        · rcases ih h with h | h
          · exact .inl h
          · exact .inr (List.mem_cons_of_mem _ h)

theorem cellInsert_pairwise {cs : List Host.Cell} (a : Nat) (b : Byte)
    (h : cs.Pairwise (fun x y => x.1 < y.1)) : (cellInsert cs a b).Pairwise (fun x y => x.1 < y.1) := by
  induction cs with
  | nil => simp [cellInsert]
  | cons d cs ih =>
    obtain ⟨x, e⟩ := d
    rw [List.pairwise_cons] at h
    simp only [cellInsert]
    split
    · rename_i hx
      rw [List.pairwise_cons, List.pairwise_cons]
      refine ⟨fun c hc => ?_, h⟩
      rcases List.mem_cons.1 hc with rfl | hc
      · exact hx
      · have := h.1 c hc
        simp only at this ⊢
        omega
    · split
      · rename_i _ hx
        subst hx
        exact List.pairwise_cons.2 h
      · refine List.pairwise_cons.2 ⟨fun c hc => ?_, ih h.2⟩
        rcases cellInsert_mem hc with rfl | hc
        · show x < a
          omega
        · exact h.1 c hc

/-- An empty store is in canonical form. -/
theorem Memory.wf_empty (d cap : Nat) : Memory.wf { draw := d, cells := [] } cap := by
  simp [Memory.wf]

/-- A write inside the capacity keeps the canonical form. -/
theorem Memory.write_wf {m : Memory} {cap a : Nat} (b : Byte) (h : m.wf cap) (ha : a < cap) :
    (m.write a b).wf cap := by
  refine ⟨cellInsert_pairwise a b h.1, fun c hc => ?_⟩
  rcases cellInsert_mem hc with rfl | hc
  · exact ha
  · exact h.2 c hc

/-- A write of bytes inside the capacity keeps the canonical form. -/
theorem Memory.writeBytes_wf {m : Memory} {cap a : Nat} (l : List Byte) (h : m.wf cap) (ha : a + l.length ≤ cap) :
    (m.writeBytes a l).wf cap := by
  induction l generalizing m a with
  | nil => exact h
  | cons b l ih =>
    simp only [List.length_cons] at ha
    exact ih (write_wf b h (by omega)) (by omega)

/-! ### The words of claims -/

theorem Memory.holds_writeBytes (m : Memory) (a : Nat) (l : List Byte) : (m.writeBytes a l).Holds a l :=
  m.bytes_writeBytes_same a l

theorem Memory.sameOutside_writeBytes (m : Memory) (a : Nat) (l : List Byte) {n : Nat} (h : l.length = n) :
    m.SameOutside (m.writeBytes a l) a n :=
  fun _ hx => read_writeBytes_outside _ _ _ (by rw [h]; exact hx)

/-- What a store that holds a byte string reads. -/
theorem Memory.Holds.read {m : Memory} {a : Nat} {l : List Byte} (h : m.Holds a l) {k : Nat} (hk : k < l.length) :
    m.read (a + k) = l[k] := by
  have : l[k] = (m.bytes a l.length)[k]'(by simpa using hk) := by
    have h' : l = m.bytes a l.length := h.symm
    exact List.getElem_of_eq h' hk
  rw [this, getElem_bytes]

end Sys2Proof.Machine
end

