-- ==== Sys2Proof/Laws/State.lean ====
section
/-! SUPPORT. One lemma per field for each update of State, so that no proof unfolds a record update. -/

namespace Sys2Proof.Machine

/-! ### The end of an operation -/

@[simp] theorem State.finish_res0 (s : State) (k : Status) (r0 r1 : Word) : (s.finish k r0 r1).res0 = r0 := rfl
@[simp] theorem State.finish_res1 (s : State) (k : Status) (r0 r1 : Word) : (s.finish k r0 r1).res1 = r1 := rfl
@[simp] theorem State.finish_status (s : State) (k : Status) (r0 r1 : Word) : (s.finish k r0 r1).status = k := rfl
@[simp] theorem State.finish_cfg (s : State) (k : Status) (r0 r1 : Word) : (s.finish k r0 r1).cfg = s.cfg := rfl
@[simp] theorem State.finish_crcR (s : State) (k : Status) (r0 r1 : Word) : (s.finish k r0 r1).crcR = s.crcR := rfl
@[simp] theorem State.finish_fb (s : State) (k : Status) (r0 r1 : Word) : (s.finish k r0 r1).fb = s.fb := rfl
@[simp] theorem State.finish_csmSt (s : State) (k : Status) (r0 r1 : Word) : (s.finish k r0 r1).csmSt = s.csmSt := rfl
@[simp] theorem State.finish_csmCls (s : State) (k : Status) (r0 r1 : Word) : (s.finish k r0 r1).csmCls = s.csmCls := rfl
@[simp] theorem State.finish_cv0 (s : State) (k : Status) (r0 r1 : Word) : (s.finish k r0 r1).cv0 = s.cv0 := rfl
@[simp] theorem State.finish_cv1 (s : State) (k : Status) (r0 r1 : Word) : (s.finish k r0 r1).cv1 = s.cv1 := rfl
@[simp] theorem State.finish_cv2 (s : State) (k : Status) (r0 r1 : Word) : (s.finish k r0 r1).cv2 = s.cv2 := rfl
@[simp] theorem State.finish_strOff (s : State) (k : Status) (r0 r1 : Word) : (s.finish k r0 r1).strOff = s.strOff := rfl
@[simp] theorem State.finish_strLen (s : State) (k : Status) (r0 r1 : Word) : (s.finish k r0 r1).strLen = s.strLen := rfl
@[simp] theorem State.finish_sr (s : State) (k : Status) (r0 r1 : Word) : (s.finish k r0 r1).sr = s.sr := rfl
@[simp] theorem State.finish_rly (s : State) (k : Status) (r0 r1 : Word) : (s.finish k r0 r1).rly = s.rly := rfl
@[simp] theorem State.finish_params (s : State) (k : Status) (r0 r1 : Word) : (s.finish k r0 r1).params = s.params := rfl
@[simp] theorem State.finish_port (s : State) (k : Status) (r0 r1 : Word) : (s.finish k r0 r1).port = s.port := rfl
@[simp] theorem State.finish_draws (s : State) (k : Status) (r0 r1 : Word) : (s.finish k r0 r1).draws = s.draws := rfl

/-! ### Success -/

@[simp] theorem State.succeed_res0 (s : State) (r0 r1 : Word) : (s.succeed r0 r1).res0 = r0 := rfl
@[simp] theorem State.succeed_res1 (s : State) (r0 r1 : Word) : (s.succeed r0 r1).res1 = r1 := rfl
@[simp] theorem State.succeed_status (s : State) (r0 r1 : Word) : (s.succeed r0 r1).status = .success := rfl
@[simp] theorem State.succeed_cfg (s : State) (r0 r1 : Word) : (s.succeed r0 r1).cfg = s.cfg := rfl
@[simp] theorem State.succeed_crcR (s : State) (r0 r1 : Word) : (s.succeed r0 r1).crcR = s.crcR := rfl
@[simp] theorem State.succeed_fb (s : State) (r0 r1 : Word) : (s.succeed r0 r1).fb = s.fb := rfl
@[simp] theorem State.succeed_csmSt (s : State) (r0 r1 : Word) : (s.succeed r0 r1).csmSt = s.csmSt := rfl
@[simp] theorem State.succeed_csmCls (s : State) (r0 r1 : Word) : (s.succeed r0 r1).csmCls = s.csmCls := rfl
@[simp] theorem State.succeed_cv0 (s : State) (r0 r1 : Word) : (s.succeed r0 r1).cv0 = s.cv0 := rfl
@[simp] theorem State.succeed_cv1 (s : State) (r0 r1 : Word) : (s.succeed r0 r1).cv1 = s.cv1 := rfl
@[simp] theorem State.succeed_cv2 (s : State) (r0 r1 : Word) : (s.succeed r0 r1).cv2 = s.cv2 := rfl
@[simp] theorem State.succeed_strOff (s : State) (r0 r1 : Word) : (s.succeed r0 r1).strOff = s.strOff := rfl
@[simp] theorem State.succeed_strLen (s : State) (r0 r1 : Word) : (s.succeed r0 r1).strLen = s.strLen := rfl
@[simp] theorem State.succeed_sr (s : State) (r0 r1 : Word) : (s.succeed r0 r1).sr = s.sr := rfl
@[simp] theorem State.succeed_rly (s : State) (r0 r1 : Word) : (s.succeed r0 r1).rly = s.rly := rfl
@[simp] theorem State.succeed_params (s : State) (r0 r1 : Word) : (s.succeed r0 r1).params = s.params := rfl
@[simp] theorem State.succeed_port (s : State) (r0 r1 : Word) : (s.succeed r0 r1).port = s.port := rfl
@[simp] theorem State.succeed_draws (s : State) (r0 r1 : Word) : (s.succeed r0 r1).draws = s.draws := rfl

/-! ### Failure -/

@[simp] theorem State.raise_res0 (s : State) (k : Status) (info : Word) : (s.raise k info).res0 = info := rfl
@[simp] theorem State.raise_res1 (s : State) (k : Status) (info : Word) : (s.raise k info).res1 = 0#32 := rfl
@[simp] theorem State.raise_status (s : State) (k : Status) (info : Word) : (s.raise k info).status = k := rfl
@[simp] theorem State.raise_cfg (s : State) (k : Status) (info : Word) : (s.raise k info).cfg = s.cfg := rfl
@[simp] theorem State.raise_crcR (s : State) (k : Status) (info : Word) : (s.raise k info).crcR = s.crcR := rfl
@[simp] theorem State.raise_fb (s : State) (k : Status) (info : Word) : (s.raise k info).fb = s.fb := rfl
@[simp] theorem State.raise_csmSt (s : State) (k : Status) (info : Word) : (s.raise k info).csmSt = s.csmSt := rfl
@[simp] theorem State.raise_csmCls (s : State) (k : Status) (info : Word) : (s.raise k info).csmCls = s.csmCls := rfl
@[simp] theorem State.raise_cv0 (s : State) (k : Status) (info : Word) : (s.raise k info).cv0 = s.cv0 := rfl
@[simp] theorem State.raise_cv1 (s : State) (k : Status) (info : Word) : (s.raise k info).cv1 = s.cv1 := rfl
@[simp] theorem State.raise_cv2 (s : State) (k : Status) (info : Word) : (s.raise k info).cv2 = s.cv2 := rfl
@[simp] theorem State.raise_strOff (s : State) (k : Status) (info : Word) : (s.raise k info).strOff = s.strOff := rfl
@[simp] theorem State.raise_strLen (s : State) (k : Status) (info : Word) : (s.raise k info).strLen = s.strLen := rfl
@[simp] theorem State.raise_sr (s : State) (k : Status) (info : Word) : (s.raise k info).sr = s.sr := rfl
@[simp] theorem State.raise_rly (s : State) (k : Status) (info : Word) : (s.raise k info).rly = s.rly := rfl
@[simp] theorem State.raise_params (s : State) (k : Status) (info : Word) : (s.raise k info).params = s.params := rfl
@[simp] theorem State.raise_port (s : State) (k : Status) (info : Word) : (s.raise k info).port = s.port := rfl
@[simp] theorem State.raise_draws (s : State) (k : Status) (info : Word) : (s.raise k info).draws = s.draws := rfl

/-! ### A free CRC register -/

@[simp] theorem State.drawCrc_res0 (s : State) : (s.drawCrc).res0 = s.res0 := rfl
@[simp] theorem State.drawCrc_res1 (s : State) : (s.drawCrc).res1 = s.res1 := rfl
@[simp] theorem State.drawCrc_status (s : State) : (s.drawCrc).status = s.status := rfl
@[simp] theorem State.drawCrc_cfg (s : State) : (s.drawCrc).cfg = s.cfg := rfl
@[simp] theorem State.drawCrc_crcR (s : State) : (s.drawCrc).crcR = Config.anyWord s.draws := rfl
@[simp] theorem State.drawCrc_fb (s : State) : (s.drawCrc).fb = s.fb := rfl
@[simp] theorem State.drawCrc_csmSt (s : State) : (s.drawCrc).csmSt = s.csmSt := rfl
@[simp] theorem State.drawCrc_csmCls (s : State) : (s.drawCrc).csmCls = s.csmCls := rfl
@[simp] theorem State.drawCrc_cv0 (s : State) : (s.drawCrc).cv0 = s.cv0 := rfl
@[simp] theorem State.drawCrc_cv1 (s : State) : (s.drawCrc).cv1 = s.cv1 := rfl
@[simp] theorem State.drawCrc_cv2 (s : State) : (s.drawCrc).cv2 = s.cv2 := rfl
@[simp] theorem State.drawCrc_strOff (s : State) : (s.drawCrc).strOff = s.strOff := rfl
@[simp] theorem State.drawCrc_strLen (s : State) : (s.drawCrc).strLen = s.strLen := rfl
@[simp] theorem State.drawCrc_sr (s : State) : (s.drawCrc).sr = s.sr := rfl
@[simp] theorem State.drawCrc_rly (s : State) : (s.drawCrc).rly = s.rly := rfl
@[simp] theorem State.drawCrc_params (s : State) : (s.drawCrc).params = s.params := rfl
@[simp] theorem State.drawCrc_port (s : State) : (s.drawCrc).port = s.port := rfl
@[simp] theorem State.drawCrc_draws (s : State) : (s.drawCrc).draws = s.draws + 1 := rfl

/-! ### The failure of a length test -/

@[simp] theorem State.raiseLength_res0 (s : State) (n : Nat) : (s.raiseLength n).res0 = 0#32 := rfl
@[simp] theorem State.raiseLength_res1 (s : State) (n : Nat) : (s.raiseLength n).res1 = 0#32 := rfl
@[simp] theorem State.raiseLength_status (s : State) (n : Nat) : (s.raiseLength n).status = .invalidParameter := rfl
@[simp] theorem State.raiseLength_cfg (s : State) (n : Nat) : (s.raiseLength n).cfg = s.cfg := rfl
@[simp] theorem State.raiseLength_fb (s : State) (n : Nat) : (s.raiseLength n).fb = s.fb := rfl
@[simp] theorem State.raiseLength_csmSt (s : State) (n : Nat) : (s.raiseLength n).csmSt = s.csmSt := rfl
@[simp] theorem State.raiseLength_csmCls (s : State) (n : Nat) : (s.raiseLength n).csmCls = s.csmCls := rfl
@[simp] theorem State.raiseLength_cv0 (s : State) (n : Nat) : (s.raiseLength n).cv0 = s.cv0 := rfl
@[simp] theorem State.raiseLength_cv1 (s : State) (n : Nat) : (s.raiseLength n).cv1 = s.cv1 := rfl
@[simp] theorem State.raiseLength_cv2 (s : State) (n : Nat) : (s.raiseLength n).cv2 = s.cv2 := rfl
@[simp] theorem State.raiseLength_strOff (s : State) (n : Nat) : (s.raiseLength n).strOff = s.strOff := rfl
@[simp] theorem State.raiseLength_strLen (s : State) (n : Nat) : (s.raiseLength n).strLen = s.strLen := rfl
@[simp] theorem State.raiseLength_sr (s : State) (n : Nat) : (s.raiseLength n).sr = s.sr := rfl
@[simp] theorem State.raiseLength_rly (s : State) (n : Nat) : (s.raiseLength n).rly = s.rly := rfl
@[simp] theorem State.raiseLength_params (s : State) (n : Nat) : (s.raiseLength n).params = s.params := rfl
@[simp] theorem State.raiseLength_port (s : State) (n : Nat) : (s.raiseLength n).port = s.port := rfl

/-- A length past the buffer touches nothing (R61). -/
theorem State.raiseLength_past (s : State) {n : Nat} (h : 65536 < n) :
    s.raiseLength n = s.raise .invalidParameter 0#32 := by
  have h : Config.fbCap < n := h
  simp only [State.raiseLength, if_pos h]

/-- A length that is too small leaves `CRC.R` at any value (R137). -/
theorem State.raiseLength_small (s : State) {n : Nat} (h : n ≤ 65536) :
    s.raiseLength n = s.drawCrc.raise .invalidParameter 0#32 := by
  have h : ¬ Config.fbCap < n := Nat.not_lt.2 h
  simp only [State.raiseLength, if_neg h]
  rfl

/-! ### The conversion of a region -/

@[simp] theorem State.swapRegion_res0 (s : State) (n : Nat) : (s.swapRegion n).res0 = s.res0 := rfl
@[simp] theorem State.swapRegion_res1 (s : State) (n : Nat) : (s.swapRegion n).res1 = s.res1 := rfl
@[simp] theorem State.swapRegion_status (s : State) (n : Nat) : (s.swapRegion n).status = s.status := rfl
@[simp] theorem State.swapRegion_cfg (s : State) (n : Nat) : (s.swapRegion n).cfg = s.cfg := rfl
@[simp] theorem State.swapRegion_crcR (s : State) (n : Nat) : (s.swapRegion n).crcR = s.crcR := rfl
@[simp] theorem State.swapRegion_fb (s : State) (n : Nat) : (s.swapRegion n).fb = s.fb.writeBytes 4 (swapWords (s.fb.bytes 4 (n - 4))) := rfl
@[simp] theorem State.swapRegion_csmSt (s : State) (n : Nat) : (s.swapRegion n).csmSt = s.csmSt := rfl
@[simp] theorem State.swapRegion_csmCls (s : State) (n : Nat) : (s.swapRegion n).csmCls = s.csmCls := rfl
@[simp] theorem State.swapRegion_cv0 (s : State) (n : Nat) : (s.swapRegion n).cv0 = s.cv0 := rfl
@[simp] theorem State.swapRegion_cv1 (s : State) (n : Nat) : (s.swapRegion n).cv1 = s.cv1 := rfl
@[simp] theorem State.swapRegion_cv2 (s : State) (n : Nat) : (s.swapRegion n).cv2 = s.cv2 := rfl
@[simp] theorem State.swapRegion_strOff (s : State) (n : Nat) : (s.swapRegion n).strOff = s.strOff := rfl
@[simp] theorem State.swapRegion_strLen (s : State) (n : Nat) : (s.swapRegion n).strLen = s.strLen := rfl
@[simp] theorem State.swapRegion_sr (s : State) (n : Nat) : (s.swapRegion n).sr = s.sr := rfl
@[simp] theorem State.swapRegion_rly (s : State) (n : Nat) : (s.swapRegion n).rly = s.rly := rfl
@[simp] theorem State.swapRegion_params (s : State) (n : Nat) : (s.swapRegion n).params = s.params := rfl
@[simp] theorem State.swapRegion_port (s : State) (n : Nat) : (s.swapRegion n).port = s.port := rfl
@[simp] theorem State.swapRegion_draws (s : State) (n : Nat) : (s.swapRegion n).draws = s.draws := rfl

/-! ### PASS -/

@[simp] theorem State.pass_res0 (s : State) (total : Word) : (s.pass total).res0 = total := rfl
@[simp] theorem State.pass_res1 (s : State) (total : Word) : (s.pass total).res1 = 0#32 := rfl
@[simp] theorem State.pass_status (s : State) (total : Word) : (s.pass total).status = .success := rfl
@[simp] theorem State.pass_cfg (s : State) (total : Word) : (s.pass total).cfg = s.cfg := rfl
@[simp] theorem State.pass_crcR (s : State) (total : Word) : (s.pass total).crcR = s.crcR := rfl
@[simp] theorem State.pass_fb (s : State) (total : Word) : (s.pass total).fb = s.fb := rfl
@[simp] theorem State.pass_csmSt (s : State) (total : Word) : (s.pass total).csmSt = s.csmSt := rfl
@[simp] theorem State.pass_csmCls (s : State) (total : Word) : (s.pass total).csmCls = s.csmCls := rfl
@[simp] theorem State.pass_cv0 (s : State) (total : Word) : (s.pass total).cv0 = s.cv0 := rfl
@[simp] theorem State.pass_cv1 (s : State) (total : Word) : (s.pass total).cv1 = s.cv1 := rfl
@[simp] theorem State.pass_cv2 (s : State) (total : Word) : (s.pass total).cv2 = s.cv2 := rfl
@[simp] theorem State.pass_strOff (s : State) (total : Word) : (s.pass total).strOff = s.strOff := rfl
@[simp] theorem State.pass_strLen (s : State) (total : Word) : (s.pass total).strLen = s.strLen := rfl
@[simp] theorem State.pass_sr (s : State) (total : Word) : (s.pass total).sr = s.sr := rfl
@[simp] theorem State.pass_rly (s : State) (total : Word) : (s.pass total).rly = s.rly := rfl
@[simp] theorem State.pass_params (s : State) (total : Word) : (s.pass total).params = s.params := rfl
@[simp] theorem State.pass_port (s : State) (total : Word) : (s.pass total).port = s.port := rfl
@[simp] theorem State.pass_draws (s : State) (total : Word) : (s.pass total).draws = s.draws := rfl

/-! ### REPLAY -/

@[simp] theorem State.replay_res0 (s : State) (action : Word) : (s.replay action).res0 = 16#32 := rfl
@[simp] theorem State.replay_res1 (s : State) (action : Word) : (s.replay action).res1 = action := rfl
@[simp] theorem State.replay_status (s : State) (action : Word) : (s.replay action).status = .success := rfl
@[simp] theorem State.replay_cfg (s : State) (action : Word) : (s.replay action).cfg = s.cfg := rfl
@[simp] theorem State.replay_crcR (s : State) (action : Word) : (s.replay action).crcR = s.crcR := rfl
@[simp] theorem State.replay_fb (s : State) (action : Word) : (s.replay action).fb = s.fb.writeBytes 0 (s.rly.lastOut.bytes 0 Config.gscnReqLen) := rfl
@[simp] theorem State.replay_csmSt (s : State) (action : Word) : (s.replay action).csmSt = s.csmSt := rfl
@[simp] theorem State.replay_csmCls (s : State) (action : Word) : (s.replay action).csmCls = s.csmCls := rfl
@[simp] theorem State.replay_cv0 (s : State) (action : Word) : (s.replay action).cv0 = s.cv0 := rfl
@[simp] theorem State.replay_cv1 (s : State) (action : Word) : (s.replay action).cv1 = s.cv1 := rfl
@[simp] theorem State.replay_cv2 (s : State) (action : Word) : (s.replay action).cv2 = s.cv2 := rfl
@[simp] theorem State.replay_strOff (s : State) (action : Word) : (s.replay action).strOff = s.strOff := rfl
@[simp] theorem State.replay_strLen (s : State) (action : Word) : (s.replay action).strLen = s.strLen := rfl
@[simp] theorem State.replay_sr (s : State) (action : Word) : (s.replay action).sr = s.sr := rfl
@[simp] theorem State.replay_rly (s : State) (action : Word) : (s.replay action).rly = s.rly := rfl
@[simp] theorem State.replay_params (s : State) (action : Word) : (s.replay action).params = s.params := rfl
@[simp] theorem State.replay_port (s : State) (action : Word) : (s.replay action).port = s.port := rfl
@[simp] theorem State.replay_draws (s : State) (action : Word) : (s.replay action).draws = s.draws := rfl

/-! ### A build -/

@[simp] theorem State.build_res0 (s : State) (x : CmdClass) (ws : List Word) : (s.build x ws).res0 = BitVec.ofNat 32 (12 + 4 * ws.length) := rfl
@[simp] theorem State.build_res1 (s : State) (x : CmdClass) (ws : List Word) : (s.build x ws).res1 = 0#32 := rfl
@[simp] theorem State.build_status (s : State) (x : CmdClass) (ws : List Word) : (s.build x ws).status = .success := rfl
@[simp] theorem State.build_cfg (s : State) (x : CmdClass) (ws : List Word) : (s.build x ws).cfg = s.cfg := rfl
@[simp] theorem State.build_crcR (s : State) (x : CmdClass) (ws : List Word) : (s.build x ws).crcR = Config.anyWord s.draws := rfl
@[simp] theorem State.build_fb (s : State) (x : CmdClass) (ws : List Word) : (s.build x ws).fb = s.fb.writeBytes 0 (requestFrame (classTag x) ws) := rfl
@[simp] theorem State.build_csmSt (s : State) (x : CmdClass) (ws : List Word) : (s.build x ws).csmSt = .idle := rfl
@[simp] theorem State.build_csmCls (s : State) (x : CmdClass) (ws : List Word) : (s.build x ws).csmCls = some x := rfl
@[simp] theorem State.build_cv0 (s : State) (x : CmdClass) (ws : List Word) : (s.build x ws).cv0 = 0#32 := rfl
@[simp] theorem State.build_cv1 (s : State) (x : CmdClass) (ws : List Word) : (s.build x ws).cv1 = 0#32 := rfl
@[simp] theorem State.build_cv2 (s : State) (x : CmdClass) (ws : List Word) : (s.build x ws).cv2 = 0#32 := rfl
@[simp] theorem State.build_strOff (s : State) (x : CmdClass) (ws : List Word) : (s.build x ws).strOff = 0#17 := rfl
@[simp] theorem State.build_strLen (s : State) (x : CmdClass) (ws : List Word) : (s.build x ws).strLen = 0#17 := rfl
@[simp] theorem State.build_sr (s : State) (x : CmdClass) (ws : List Word) : (s.build x ws).sr = if x = CmdClass.gscn ∨ x = CmdClass.gsc2 then ScanRecord.cleared else s.sr := rfl
@[simp] theorem State.build_rly (s : State) (x : CmdClass) (ws : List Word) : (s.build x ws).rly = s.rly := rfl
@[simp] theorem State.build_params (s : State) (x : CmdClass) (ws : List Word) : (s.build x ws).params = s.params := rfl
@[simp] theorem State.build_port (s : State) (x : CmdClass) (ws : List Word) : (s.build x ws).port = s.port := rfl
@[simp] theorem State.build_draws (s : State) (x : CmdClass) (ws : List Word) : (s.build x ws).draws = s.draws + 1 := rfl

/-! ### Reset -/

@[simp] theorem State.resetNow_res0 (s : State) : (s.resetNow).res0 = 0#32 := rfl
@[simp] theorem State.resetNow_res1 (s : State) : (s.resetNow).res1 = 0#32 := rfl
@[simp] theorem State.resetNow_status (s : State) : (s.resetNow).status = .success := rfl
@[simp] theorem State.resetNow_cfg (s : State) : (s.resetNow).cfg = 0#32 := rfl
@[simp] theorem State.resetNow_crcR (s : State) : (s.resetNow).crcR = Config.anyWord s.draws := rfl
@[simp] theorem State.resetNow_fb (s : State) : (s.resetNow).fb = { draw := s.draws, cells := [] } := rfl
@[simp] theorem State.resetNow_csmSt (s : State) : (s.resetNow).csmSt = .idle := rfl
@[simp] theorem State.resetNow_csmCls (s : State) : (s.resetNow).csmCls = none := rfl
@[simp] theorem State.resetNow_cv0 (s : State) : (s.resetNow).cv0 = 0#32 := rfl
@[simp] theorem State.resetNow_cv1 (s : State) : (s.resetNow).cv1 = 0#32 := rfl
@[simp] theorem State.resetNow_cv2 (s : State) : (s.resetNow).cv2 = 0#32 := rfl
@[simp] theorem State.resetNow_strOff (s : State) : (s.resetNow).strOff = 0#17 := rfl
@[simp] theorem State.resetNow_strLen (s : State) : (s.resetNow).strLen = 0#17 := rfl
@[simp] theorem State.resetNow_sr (s : State) : (s.resetNow).sr = ScanRecord.cleared := rfl
@[simp] theorem State.resetNow_rly (s : State) : (s.resetNow).rly = Relay.resetAt s.draws := rfl
@[simp] theorem State.resetNow_params (s : State) : (s.resetNow).params = s.params := rfl
@[simp] theorem State.resetNow_port (s : State) : (s.resetNow).port = s.port := rfl
@[simp] theorem State.resetNow_draws (s : State) : (s.resetNow).draws = s.draws + resetDraws := rfl

end Sys2Proof.Machine
end

