-- ==== Sys2Proof/Laws/Frame.lean ====
section
/-! SUPPORT. What the shared operations of the frame codec do: the conversion of a region (R66, R170), the byte write and the
delivery of a byte string (R113, R162), the two 4-byte views of a store (R12). -/

namespace Sys2Proof.Machine

/-- The word swap, word by word (R66). -/
theorem swapWords_getElem : ∀ (l : List Byte) (k : Nat) (h : 4 * k + 3 < l.length),
    (swapWords l)[4 * k]'(by simp; omega) = l[4 * k + 3] ∧ (swapWords l)[4 * k + 1]'(by simp; omega) = l[4 * k + 2] ∧
    (swapWords l)[4 * k + 2]'(by simp; omega) = l[4 * k + 1] ∧ (swapWords l)[4 * k + 3]'(by simp; omega) = l[4 * k]
  | a :: b :: c :: d :: l, 0, h => by simp
  | a :: b :: c :: d :: l, k + 1, h => by
    have := swapWords_getElem l k (by simp at h; omega)
    simp only [swapWords_cons4, show 4 * (k + 1) = 4 * k + 4 by omega, show 4 * k + 4 + 1 = 4 * k + 1 + 4 by omega,
      show 4 * k + 4 + 2 = 4 * k + 2 + 4 by omega, show 4 * k + 4 + 3 = 4 * k + 3 + 4 by omega]
    simpa using this
  | [], k, h => by simp at h
  | [_], k, h => by simp at h
  | [_, _], k, h => by simp at h
  | [_, _, _], k, h => by simp at h

/-- All a conversion does to the frame buffer (R170). -/
theorem State.swapRegion_converted (s : State) (total : Nat) : s.fb.Converted (s.swapRegion total).fb total := by
  refine ⟨fun w h1 h2 h3 => ?_, Memory.sameOutside_writeBytes _ _ _ (by simp)⟩
  obtain ⟨k, rfl⟩ : ∃ k, w = 4 + 4 * k := ⟨(w - 4) / 4, by omega⟩
  have g := swapWords_getElem (s.fb.bytes 4 (total - 4)) k (by simp; omega)
  have r : ∀ j (hj : j < total - 4), (s.swapRegion total).fb.read (4 + j) =
      (swapWords (s.fb.bytes 4 (total - 4)))[j]'(by simpa using hj) :=
    fun j hj => Memory.read_writeBytes_inside _ _ _ (by simpa using hj)
  simp only [Memory.getElem_bytes] at g
  rw [Nat.add_assoc, Nat.add_assoc, Nat.add_assoc, r _ (by omega), r _ (by omega), r _ (by omega), r _ (by omega), g.1,
    g.2.1, g.2.2.1, g.2.2.2]
  exact ⟨rfl, rfl, rfl, rfl⟩

/-- A converted word in host order is the word it was in network order (R66). -/
theorem Memory.Converted.leWord {m m' : Memory} {total w : Nat} (h : m.Converted m' total) (h1 : 4 ≤ w)
    (h2 : w + 4 ≤ total) (h3 : w % 4 = 0) : m'.leWord w = m.beWord w := by
  obtain ⟨a, b, c, d⟩ := h.1 w h1 h2 h3
  simp [Memory.leWord, Memory.beWord, a, b, c, d]

/-- The conversion succeeds on a region of whole words inside the buffer (R170). -/
theorem convertRegion_next (s : State) (total : Word) (h1 : 4 ≤ total.toNat) (h2 : total.toNat ≤ 65536)
    (h3 : (total.toNat - 4) % 4 = 0) :
    convertRegion total s =
      .next ((s.swapRegion total.toNat).succeed (BitVec.ofNat 32 ((total.toNat - 4) / 4)) 0#32) := by
  have a : inBuffer total.toNat 0 = true := by simp; omega
  have b : regionOk total.toNat = true := by simp; omega
  simp [convertRegion, a, b]

/-- The conversion is refused on any other region inside the buffer (U1). -/
theorem convertRegion_refused (s : State) (total : Word) (h1 : total.toNat ≤ 65536)
    (h2 : total.toNat < 4 ∨ (total.toNat - 4) % 4 ≠ 0) : convertRegion total s = .refused .conversionRegion := by
  have a : inBuffer total.toNat 0 = true := by simp; omega
  have b : ¬ regionOk total.toNat = true := by simp; omega
  simp [convertRegion, a, b]

/-- The conversion fails past the buffer (R61). -/
theorem convertRegion_raise (s : State) (total : Word) (h : 65536 < total.toNat) :
    convertRegion total s = .next (s.raise .invalidParameter 0#32) := by
  have a : ¬ inBuffer total.toNat 0 = true := by simp; omega
  simp [convertRegion, a]

/-- The byte write inside the buffer (R162). -/
theorem bufWrite_inside (s : State) {off : Nat} (b : Byte) (h : off < 65536) :
    bufWrite off b s = { s with fb := s.fb.write off b }.succeed 0#32 0#32 := by
  rw [bufWrite, if_pos (by simp; omega)]

/-- The byte write past the buffer (R61). -/
theorem bufWrite_outside (s : State) {off : Nat} (b : Byte) (h : 65536 ≤ off) :
    bufWrite off b s = s.raise .invalidParameter 0#32 := by
  rw [bufWrite, if_neg (by simp; omega)]

end Sys2Proof.Machine
end

