-- ==== Sys2Proof/Laws/Command.lean ====
section
/-! SUPPORT. What the shared operations of the command cycle do: strings (R215, R217), the five extractions (R215 to R219), the
reception of a frame (R210). -/

namespace Sys2Proof.Machine

/-- The string's length: no zero byte before it, and one at it unless the field ends there. -/
theorem stringLength_spec (l : List Byte) :
    stringLength l ≤ l.length ∧ (∀ k (_ : k < l.length), k < stringLength l → l[k] ≠ 0#8) ∧
      ∀ h : stringLength l < l.length, l[stringLength l] = 0#8 := by
  induction l with
  | nil => simp [stringLength]
  | cons b l ih =>
    by_cases hb : b = 0#8
    · subst hb
      simp [stringLength]
    · have e : stringLength (b :: l) = stringLength l + 1 := by
        simp [stringLength, hb]
      refine ⟨by simp [e]; exact ih.1, ?_, ?_⟩
      · intro k h hk
        cases k with
        | zero => simpa using hb
        | succ k => simpa using ih.2.1 k (by simpa using h) (by omega)
      · intro h
        simp only [e, List.getElem_cons_succ]
        exact ih.2.2 (by simp [e] at h; omega)

/-- The same for the bytes of a store. -/
theorem stringLength_bytes (m : Memory) (a n : Nat) :
    stringLength (m.bytes a n) ≤ n ∧ (∀ k, k < stringLength (m.bytes a n) → m.read (a + k) ≠ 0#8) ∧
      (stringLength (m.bytes a n) < n → m.read (a + stringLength (m.bytes a n)) = 0#8) := by
  have := stringLength_spec (m.bytes a n)
  simp only [Memory.bytes_length, Memory.getElem_bytes] at this
  exact ⟨this.1, fun k hk => this.2.1 k (by omega) hk, fun h => this.2.2 h⟩

/-- `Extract_GVER` on a long enough response (R215). -/
theorem extractGver_next (r : Nat) (s : State) (h : 12 ≤ r) :
    extractGver r s = .next ({ s.swapRegion 8 with
      strOff := 8#17
      strLen := BitVec.ofNat 17 (stringLength (s.fb.bytes 8 (r - 12))) }.succeed
        (BitVec.ofNat 32 (stringLength (s.fb.bytes 8 (r - 12)))) 0#32) := by
  rw [extractGver, if_neg (by omega)]

/-- `Extract_GPRM` and `Extract_SPRM` on a long enough response of whole words (R216). -/
theorem extractValue_next (r : Nat) (s : State) (h1 : (r - 4) % 4 = 0) (h2 : 16 + 4 * s.params.rspFirst ≤ r) :
    extractValue r s = .next ({ s.swapRegion r with
      cv0 := (s.swapRegion r).fb.leWord (8 + 4 * s.params.rspFirst) }.succeed
        ((s.swapRegion r).fb.leWord (8 + 4 * s.params.rspFirst)) 0#32) := by
  rw [extractValue, if_neg (by omega)]

/-- `Extract_GPIN` on a long enough response (R217), `q` the offset of the string. -/
theorem extractGpin_next (r q : Nat) (s : State) (hq : q = 8 + 4 * (s.params.rspFirst + 3)) (h : q + 4 ≤ r) :
    extractGpin r s = .next ({ s.swapRegion q with
      cv0 := (s.swapRegion q).fb.leWord (q - 12)
      cv1 := (s.swapRegion q).fb.leWord (q - 8)
      cv2 := (s.swapRegion q).fb.leWord (q - 4)
      strOff := BitVec.ofNat 17 q
      strLen := BitVec.ofNat 17 (stringLength (s.fb.bytes q (r - 4 - q))) }.succeed
        ((s.swapRegion q).fb.leWord (q - 12)) 0#32) := by
  subst hq
  rw [extractGpin, if_neg (by omega)]

/-- `Extract_SCAN` on a response of whole words (R218). -/
theorem extractScan_next (r : Nat) (s : State) (h1 : (r - 4) % 4 = 0) (h2 : 12 ≤ r) :
    extractScan r s = .next ((s.swapRegion r).succeed 0#32 0#32) := by
  rw [extractScan, if_neg (by omega)]

/-- `Extract_GSCN` and `Extract_GSC2` on a payload the parser accepts (R219). -/
theorem extractRecord_parsed (r : Nat) (s : State) {sr : ScanRecord} (h1 : (r - 4) % 4 = 0) (h2 : 12 ≤ r)
    (h : parseScan (s.swapRegion r).fb r = .parsed sr) :
    extractRecord r s = .next ({ s.swapRegion r with sr := sr }.succeed (BitVec.ofNat 32 sr.npts) 0#32) := by
  rw [extractRecord, if_neg (by omega)]
  simp only [h]

/-- The same where the counts exceed the maxima: `FB` is untouched (R219, R355; log entry 11). -/
theorem extractRecord_overflow (r : Nat) (s : State) (h1 : (r - 4) % 4 = 0) (h2 : 12 ≤ r)
    (h : parseScan (s.swapRegion r).fb r = .overflow) :
    extractRecord r s = .next ({ s with sr := ScanRecord.cleared }.raise .bufferOverflow 0#32) := by
  rw [extractRecord, if_neg (by omega)]
  simp only [h]

/-- The same where the payload has no meaning (R219, R253). -/
theorem extractRecord_undefined (r : Nat) (s : State) (h1 : (r - 4) % 4 = 0) (h2 : 12 ≤ r)
    (h : parseScan (s.swapRegion r).fb r = .undefined) : extractRecord r s = .refused .scanPayload := by
  rw [extractRecord, if_neg (by omega)]
  simp only [h]

/-- The shape a class needs of a response: every other one is refused (R215 to R219, U5). -/
def responseFits (x : CmdClass) (p : Params) (r : Nat) : Prop :=
  match x with
  | .gver => 12 ≤ r
  | .gprm | .sprm => (r - 4) % 4 = 0 ∧ 16 + 4 * p.rspFirst ≤ r
  | .gpin => 24 + 4 * p.rspFirst ≤ r
  | .scan | .gscn | .gsc2 => (r - 4) % 4 = 0 ∧ 12 ≤ r

/-- A response of another shape is refused (U5). -/
theorem extract_misfit (x : CmdClass) (r : Nat) (s : State) (h : ¬responseFits x s.params r) :
    extract x r s = .refused .responseShape := by
  cases x <;> simp only [responseFits] at h <;>
    simp only [extract, extractGver, extractValue, extractGpin, extractScan, extractRecord] <;> exact if_pos (by omega)

/-- Every extraction that answers a next state: what it can change (R215 to R219). -/
theorem extract_frame (x : CmdClass) (r : Nat) (s t : State) (h : extract x r s = .next t) :
    t = { s with
      fb := t.fb, cv0 := t.cv0, cv1 := t.cv1, cv2 := t.cv2, strOff := t.strOff, strLen := t.strLen, sr := t.sr
      res0 := t.res0, res1 := t.res1, status := t.status } := by
  cases x <;> simp only [extract, extractGver, extractValue, extractGpin, extractScan, extractRecord] at h
  all_goals
    split at h
    · cases h
    · first
        | (cases h; rfl)
        | (split at h
           · cases h; rfl
           · cases h; rfl
           · cases h)

/-- A mismatch of the CRC (R210). -/
theorem receive_mismatch (x : Option CmdClass) (r : Nat) (s : State)
    (h : crc32 (s.fb.bytes 0 (r - 4)) ≠ s.fb.beWord (r - 4)) :
    receive x r s = .next (s.finish .crcError (crc32 (s.fb.bytes 0 (r - 4))) (s.fb.beWord (r - 4))) := by
  simp only [receive]
  rw [if_pos h]

/-- An intact error frame (R210). -/
theorem receive_error (x : Option CmdClass) (r : Nat) (s : State)
    (h : crc32 (s.fb.bytes 0 (r - 4)) = s.fb.beWord (r - 4)) (ht : s.fb.bytes 0 4 = tagBytes .err) (hr : 16 ≤ r) :
    receive x r s = .next (s.finish (errMap s.params (s.fb.beWord 8)) (s.fb.beWord 8) 1#32) := by
  simp only [receive]
  rw [if_neg (by simpa using h), if_pos ht, if_neg (by omega)]

/-- An intact frame of any other tag goes to the extraction of the request's class (R210). -/
theorem receive_extract (x : CmdClass) (r : Nat) (s : State)
    (h : crc32 (s.fb.bytes 0 (r - 4)) = s.fb.beWord (r - 4)) (ht : s.fb.bytes 0 4 ≠ tagBytes .err) :
    receive (some x) r s = extract x r s := by
  simp only [receive]
  rw [if_neg (by simpa using h), if_neg ht]

/-- `CMD.RXDONE` of a byte count inside the limits in state Sent is the reception (R210). -/
theorem execCmdRxdone_receive (s : State) (r : Word) (h : s.csmSt = .sent) (h1 : 4 < r.toNat) (h2 : r.toNat ≤ 65536) :
    execCmdRxdone r s = receive s.csmCls r.toNat { s.drawCrc with csmSt := .idle, csmCls := none } := by
  have a : ¬ s32 r < 0 := by
    rw [s32, BitVec.toInt_eq_toNat_cond]
    split <;> omega
  have b : r ≠ 0#32 := by
    rintro rfl
    simp at h1
  have c : ¬ frameLengthOk r.toNat = false := by simp; omega
  simp only [execCmdRxdone]
  rw [if_neg (by simp [h]), if_neg a, if_neg b, if_neg c]
  rfl

end Sys2Proof.Machine
end

