-- ==== Sys2Proof/Laws/Crc.lean ====
section
/-! SUPPORT. The byte step of the CRC register (R131, R132) is linear and one to one. -/

namespace Sys2Proof.Machine

/-- Eight shifts of the table construction: one byte of the register. -/
def crcShift8 (c : Word) : Word :=
  crcShift (crcShift (crcShift (crcShift (crcShift (crcShift (crcShift (crcShift c)))))))

theorem crcTable_eq (i : Byte) : crcTable i = crcShift8 (i.setWidth 32) := rfl

/-- One shift is linear over XOR. -/
theorem crcShift_xor (x y : Word) : crcShift (x ^^^ y) = crcShift x ^^^ crcShift y := by
  simp only [crcShift, BitVec.getLsbD_xor]
  cases x.getLsbD 0 <;> cases y.getLsbD 0 <;> simp [BitVec.ushiftRight_xor_distrib]
  · ac_rfl
  · ac_rfl
  · rw [show x >>> 1 ^^^ Config.crcPolyReflected ^^^ (y >>> 1 ^^^ Config.crcPolyReflected)
      = x >>> 1 ^^^ y >>> 1 ^^^ (Config.crcPolyReflected ^^^ Config.crcPolyReflected) by ac_rfl]
    simp

/-- Eight shifts are linear over XOR. -/
theorem crcShift8_xor (x y : Word) : crcShift8 (x ^^^ y) = crcShift8 x ^^^ crcShift8 y := by
  simp [crcShift8, crcShift_xor]

/-- A register with its low eight bits clear is shifted out without reduction. -/
theorem crcShift8_high (x : Word) : crcShift8 ((x >>> 8) <<< 8) = x >>> 8 := by
  have key : ∀ n : Nat, n < 8 → crcShift ((x >>> 8) <<< (n + 1)) = (x >>> 8) <<< n := by
    intro n hn
    rw [crcShift, if_neg (by simp)]
    apply BitVec.eq_of_getLsbD_eq
    intro k hk
    simp
    by_cases h : k < n
    · simp [h]
      intro _ h2
      omega
    · have e : 8 + (1 + k - (n + 1)) = 8 + (k - n) := by omega
      simp [h, e, hk]
      by_cases h31 : 1 + k < 32
      · simp [h31]
        intros
        omega
      · have : x.getLsbD (8 + (k - n)) = false := BitVec.getLsbD_of_ge _ _ (by omega)
        simp [this]
  simp only [crcShift8]
  rw [key 7 (by omega), key 6 (by omega), key 5 (by omega), key 4 (by omega), key 3 (by omega), key 2 (by omega),
    key 1 (by omega), key 0 (by omega)]
  simp

/-- A word is its high 24 bits and its low byte. -/
theorem word_split_low_byte (x : Word) : x = ((x >>> 8) <<< 8) ^^^ ((x.setWidth 8).setWidth 32) := by
  apply BitVec.eq_of_getLsbD_eq
  intro k hk
  simp [hk]
  by_cases h : k < 8
  · simp [h]
  · simp [h]
    congr 1
    omega

/-- The table step of R131 is the byte fed into the register and eight shifts. -/
theorem crcStep_eq (r : Word) (b : Byte) : crcStep r b = crcShift8 (r ^^^ b.setWidth 32) := by
  have h : ∀ x : Word, crcShift8 x = crcTable (x.setWidth 8) ^^^ (x >>> 8) := by
    intro x
    conv => lhs; rw [word_split_low_byte x]
    rw [crcShift8_xor, crcShift8_high, BitVec.xor_comm]
    rfl
  rw [h, crcStep]
  congr 1
  rw [BitVec.ushiftRight_xor_distrib]
  have : (b.setWidth 32 : Word) >>> 8 = 0#32 := by
    ext k hk
    simp
  rw [this]
  simp

/-- One shift is zero on the zero word only. -/
theorem crcShift_eq_zero {x : Word} (h : crcShift x = 0#32) : x = 0#32 := by
  unfold crcShift at h
  split at h
  · have := congrArg (fun y => y.getLsbD 31) h
    simp [Config.crcPolyReflected] at this
  · rename_i h0
    ext k hk
    by_cases hk0 : k = 0
    · subst hk0
      simpa using h0
    · have := congrArg (fun y => y.getLsbD (k - 1)) h
      simp at this
      have h1 : 1 + (k - 1) = k := by omega
      rw [h1] at this
      simpa [BitVec.getLsbD_eq_getElem hk] using this

/-- Eight shifts are one to one. -/
theorem crcShift8_injective {x y : Word} (h : crcShift8 x = crcShift8 y) : x = y := by
  have h0 : crcShift8 (x ^^^ y) = 0#32 := by rw [crcShift8_xor, h]; simp
  have z : ∀ w, crcShift8 w = 0#32 → w = 0#32 := fun w hw =>
    crcShift_eq_zero (crcShift_eq_zero (crcShift_eq_zero (crcShift_eq_zero
      (crcShift_eq_zero (crcShift_eq_zero (crcShift_eq_zero (crcShift_eq_zero hw)))))))
  exact BitVec.xor_eq_zero_iff.1 (z _ h0)

/-- The step is one to one in the register. -/
theorem crcStep_injective_register {r r' : Word} {b : Byte} (h : crcStep r b = crcStep r' b) : r = r' := by
  rw [crcStep_eq, crcStep_eq] at h
  exact (BitVec.xor_left_inj _).1 (crcShift8_injective h)

/-- The step is one to one in the byte. -/
theorem crcStep_injective_byte {r : Word} {b b' : Byte} (h : crcStep r b = crcStep r b') : b = b' := by
  rw [crcStep_eq, crcStep_eq] at h
  have := (BitVec.xor_right_inj _).1 (crcShift8_injective h)
  have := congrArg (fun w : Word => w.setWidth 8) this
  simpa using this

@[simp] theorem crcFeed_nil (r : Word) : crcFeed r [] = r := rfl

@[simp] theorem crcFeed_cons (r : Word) (b : Byte) (l : List Byte) : crcFeed r (b :: l) = crcFeed (crcStep r b) l := rfl

/-- Feeding a sequence in two parts is feeding the whole (R134). -/
theorem crcFeed_append (r : Word) (a b : List Byte) : crcFeed r (a ++ b) = crcFeed (crcFeed r a) b := List.foldl_append

/-- Feeding a sequence is one to one in the register. -/
theorem crcFeed_injective (l : List Byte) {r r' : Word} (h : crcFeed r l = crcFeed r' l) : r = r' := by
  induction l generalizing r r' with
  | nil => exact h
  | cons b l ih => exact crcStep_injective_register (ih h)

end Sys2Proof.Machine
end

