-- ==== Sys2Proof/Laws/Decode.lean ====
section
/-! SUPPORT. The fields of an operation word (R108), and the pieces of a frame's byte string (R91). -/

namespace Sys2Proof

open Sys2Proof.Machine

/-- A bit past a word's width is 0. -/
theorem getLsbD_past {w : Nat} (x : BitVec w) (k : Nat) (h : w ≤ k) : x.getLsbD k = false :=
  BitVec.getLsbD_of_ge x k h

@[simp] theorem opcField_opWord (opc : Byte) (a0 a1 : Word) : opcField (opWord opc a0 a1) = opc := by
  ext k hk
  have h1 : k < 104 := by omega
  have h2 : k < 40 := by omega
  simp [opcField, opWord, h1, h2, hk]

@[simp] theorem a0Field_opWord (opc : Byte) (a0 a1 : Word) : a0Field (opWord opc a0 a1) = a0 := by
  ext k hk
  have h1 : 8 + k < 104 := by omega
  have h2 : 8 + k < 40 := by omega
  simp [a0Field, opWord, h1, h2, hk]

@[simp] theorem a1Field_opWord (opc : Byte) (a0 a1 : Word) : a1Field (opWord opc a0 a1) = a1 := by
  ext k hk
  have h1 : 40 + k < 104 := by omega
  have h3 : opc.getLsbD (40 + k) = false := getLsbD_past _ _ (by omega)
  have h4 : a0.getLsbD (40 + k - 8) = false := getLsbD_past _ _ (by omega)
  simp [a1Field, opWord, h1, h3, h4, hk]

@[simp] theorem a2Field_opWord (opc : Byte) (a0 a1 : Word) : a2Field (opWord opc a0 a1) = 0 := by
  ext k hk
  have h3 : opc.getLsbD (72 + k) = false := getLsbD_past _ _ (by omega)
  have h4 : a0.getLsbD (72 + k - 8) = false := getLsbD_past _ _ (by omega)
  have h5 : a1.getLsbD (72 + k - 40) = false := getLsbD_past _ _ (by omega)
  simp [a2Field, opWord, h3, h4, h5]

/-- The tag of a frame's bytes (R91). -/
theorem tagOf_frameBytes (t : Tag) (len : Word) (payload : List Byte) (crc : Word) :
    tagOf (frameBytes t len payload crc) = some t := by
  cases t <;> rfl

/-- A list that starts with a tag's four bytes has that tag (R106). -/
theorem tagOf_eq_some {l : List Byte} {t : Tag} : tagOf l = some t ↔ l.take 4 = tagBytes t := by
  constructor
  · intro h
    exact by simpa using List.find?_some h
  · intro h
    unfold tagOf
    rw [h]
    cases t <;> rfl

end Sys2Proof
end

