-- ==== Sys2Proof/Laws/Relay.lean ====
section
/-! SUPPORT. What the shared operations of the relay do: the stored frames (R34, R290), the equation of each path of `RLY.OUT`
and `RLY.IN` (R284, R290). -/

namespace Sys2Proof.Machine

@[simp] theorem plainRequest_length (p : Params) : (plainRequest p).length = 16 := by simp [plainRequest]

/-- A frame put into a store is the store's frame (R34, R35). -/
theorem Store.frame_put (st : Store) (l : List Byte) (h : l.length < 2 ^ 17) : (st.put l).frame = l := by
  have e : (BitVec.ofNat 17 l.length).toNat = l.length := by simp; omega
  simp only [Store.frame, Store.put, e]
  exact Memory.holds_writeBytes _ _ _

@[simp] theorem Store.put_len (st : Store) (l : List Byte) : (st.put l).len = BitVec.ofNat 17 l.length := rfl

/-- Storing a frame, where a slot is free (R290). -/
theorem Relay.store_eq (r : Relay) (f : List Byte) (h : r.cnt < 10) :
    r.store f = { r with slot := r.slot.set r.cnt (r.slot[r.cnt].put f), cnt := r.cnt + 1 } := by
  rw [Relay.store, dif_pos h]

@[simp] theorem Relay.store_n (r : Relay) (f : List Byte) : (r.store f).n = r.n := by unfold Relay.store; split <;> rfl

@[simp] theorem Relay.store_m (r : Relay) (f : List Byte) : (r.store f).m = r.m := by unfold Relay.store; split <;> rfl

@[simp] theorem Relay.store_lastOut (r : Relay) (f : List Byte) : (r.store f).lastOut = r.lastOut := by
  unfold Relay.store
  split <;> rfl

@[simp] theorem Relay.store_origReq (r : Relay) (f : List Byte) : (r.store f).origReq = r.origReq := by
  unfold Relay.store
  split <;> rfl

@[simp] theorem Relay.store_active (r : Relay) (f : List Byte) : (r.store f).active = r.active := by
  unfold Relay.store
  split <;> rfl

/-- The frames after one more is stored are the ones before it and the new one, in order of arrival (R290). -/
theorem Relay.frames_store (r : Relay) (f : List Byte) (h : r.cnt < 10) (hf : f.length < 2 ^ 17) :
    (r.store f).frames = r.frames ++ [f] := by
  have hx : (r.slot.set r.cnt (r.slot[r.cnt].put f)).toList.take (r.cnt + 1) =
      r.slot.toList.take r.cnt ++ [r.slot[r.cnt].put f] := by
    have hl : r.slot.toList.length = 10 := by simp
    simp only [Vector.toList_set]
    rw [List.take_add_one]
    simp [List.take_set_of_le]
    rw [List.getElem?_set]
    simp [h]
  rw [Relay.store_eq r f h]
  simp only [Relay.frames]
  rw [hx, List.map_append, List.map_cons, List.map_nil, Store.frame_put _ _ hf]

/-- The trailer of a frame matches (R290). -/
theorem frameIntact_iff (fb : Memory) (total : Nat) :
    frameIntact fb total = true ↔ 4 < total ∧ crc32 (fb.bytes 0 (total - 4)) = fb.beWord (total - 4) := by
  simp [frameIntact]

/-- The range test on the accumulator (R33). -/
theorem Relay.inRange_iff (r : Relay) :
    r.inRange = true ↔ 2 ≤ r.n.toInt ∧ r.n.toInt ≤ 10 ∧ 2 ≤ r.m.toInt ∧ (r.cnt : Int) < r.n.toInt := by
  exact decide_eq_true_iff

/-! ### `RLY.OUT` (R284) -/

theorem execRlyOut_raise (s : State) (total : Word) (h : total.toNat < 4 ∨ 65536 < total.toNat) :
    execRlyOut total s = .next (s.raiseLength total.toNat) := by
  have a : relayLengthOk total.toNat = false := by rw [Bool.eq_false_iff]; simp; omega
  simp only [execRlyOut]
  rw [if_pos a]

theorem execRlyOut_pass (s : State) (total : Word) (h1 : 4 ≤ total.toNat) (h2 : total.toNat ≤ 65536)
    (h3 : s.fb.bytes 0 4 ≠ tagBytes .gsc2) : execRlyOut total s = .next (s.drawCrc.pass total) := by
  have a : ¬ relayLengthOk total.toNat = false := by simp; omega
  simp only [execRlyOut]
  rw [if_neg a, if_pos h3]

theorem execRlyOut_short (s : State) (total : Word) (h1 : 4 ≤ total.toNat) (h2 : total.toNat < 20)
    (h3 : s.fb.bytes 0 4 = tagBytes .gsc2) : execRlyOut total s = .refused .gsc2TooShort := by
  have a : ¬ relayLengthOk total.toNat = false := by simp; omega
  simp only [execRlyOut]
  rw [if_neg a, if_neg (by simpa using h3), if_pos h2]

theorem execRlyOut_deactivate (s : State) (total : Word) (h1 : 20 ≤ total.toNat) (h2 : total.toNat ≤ 65536)
    (h3 : s.fb.bytes 0 4 = tagBytes .gsc2) (h4 : (s.fb.beWord 8).toInt ≤ 1 ∨ (s.fb.beWord 12).toInt ≤ 1) :
    execRlyOut total s =
      .next ({ s.drawCrc with rly := { s.rly with cnt := 0, active := false } }.pass total) := by
  have a : ¬ relayLengthOk total.toNat = false := by simp; omega
  simp only [execRlyOut]
  rw [if_neg a, if_neg (by simpa using h3), if_neg (by omega), if_pos (by exact h4)]

theorem execRlyOut_refused (s : State) (total : Word) (h1 : 20 ≤ total.toNat) (h2 : total.toNat ≤ 65536)
    (h3 : s.fb.bytes 0 4 = tagBytes .gsc2) (h4 : 10 < (s.fb.beWord 8).toInt) (h5 : 2 ≤ (s.fb.beWord 12).toInt) :
    execRlyOut total s = .refused .tooManyScans := by
  have a : ¬ relayLengthOk total.toNat = false := by simp; omega
  have e : Config.maxSlots = 10 := rfl
  simp only [execRlyOut]
  rw [if_neg a, if_neg (by simpa using h3), if_neg (by omega), if_neg (by simp only [s32]; omega),
    if_pos (by simp only [s32]; omega)]

theorem execRlyOut_rewrite (s : State) (total : Word) (h1 : 20 ≤ total.toNat) (h2 : total.toNat ≤ 65536)
    (h3 : s.fb.bytes 0 4 = tagBytes .gsc2) (h4 : 2 ≤ (s.fb.beWord 8).toInt) (h5 : (s.fb.beWord 8).toInt ≤ 10)
    (h6 : 2 ≤ (s.fb.beWord 12).toInt) :
    execRlyOut total s = .next ({ s.drawCrc with
      fb := s.fb.writeBytes 0 (plainRequest s.params)
      rly := s.rly.start (s.fb.beWord 8) (s.fb.beWord 12) (s.fb.bytes 0 total.toNat) (plainRequest s.params) }.succeed
        16#32 1#32) := by
  have a : ¬ relayLengthOk total.toNat = false := by simp; omega
  have e : Config.maxSlots = 10 := rfl
  simp only [execRlyOut]
  rw [if_neg a, if_neg (by simpa using h3), if_neg (by omega), if_neg (by simp only [s32]; omega),
    if_neg (by simp only [s32]; omega)]

/-! ### `RLY.IN` (R290) -/

theorem execRlyIn_raise (s : State) (total : Word) (h : total.toNat < 4 ∨ 65536 < total.toNat) :
    execRlyIn total s = .next (s.raiseLength total.toNat) := by
  have a : relayLengthOk total.toNat = false := by rw [Bool.eq_false_iff]; simp; omega
  simp only [execRlyIn]
  rw [if_pos a]

theorem execRlyIn_pass (s : State) (total : Word) (h1 : 4 ≤ total.toNat) (h2 : total.toNat ≤ 65536)
    (h3 : s.rly.active = false ∨ s.fb.bytes 0 4 ≠ tagBytes .gscn) :
    execRlyIn total s = .next (s.drawCrc.pass total) := by
  have a : ¬ relayLengthOk total.toNat = false := by simp; omega
  simp only [execRlyIn]
  rw [if_neg a, if_pos h3]

theorem execRlyIn_crcFailure (s : State) (total : Word) (h1 : 4 ≤ total.toNat) (h2 : total.toNat ≤ 65536)
    (h3 : s.rly.active = true) (h4 : s.fb.bytes 0 4 = tagBytes .gscn) (h5 : frameIntact s.fb total.toNat = false) :
    execRlyIn total s = .next ({ s.drawCrc with rly := { s.rly with cnt := 0 } }.replay 3#32) := by
  have a : ¬ relayLengthOk total.toNat = false := by simp; omega
  simp only [execRlyIn]
  rw [if_neg a, if_neg (by simp [h3, h4]), if_pos h5]

theorem execRlyIn_store (s : State) (total : Word) (h1 : 4 ≤ total.toNat) (h2 : total.toNat ≤ 65536)
    (h3 : s.rly.active = true) (h4 : s.fb.bytes 0 4 = tagBytes .gscn) (h5 : frameIntact s.fb total.toNat = true)
    (h6 : s.rly.inRange = true) (h7 : (s.rly.cnt : Int) + 1 < s.rly.n.toInt) :
    execRlyIn total s =
      .next ({ s.drawCrc with rly := s.rly.store (s.fb.bytes 0 total.toNat) }.replay 2#32) := by
  have a : ¬ relayLengthOk total.toNat = false := by simp; omega
  have r := (Relay.inRange_iff _).1 h6
  have hc : s.rly.cnt < 10 := by omega
  simp only [execRlyIn]
  rw [if_neg a, if_neg (by simp [h3, h4]), if_neg (by simp [h5]), if_neg (by simp [h6]), if_pos]
  rw [Relay.store_n, Relay.store_eq _ _ hc]
  push_cast
  exact h7

/-- The frame that completes the set, whatever `Average` answers on it and the frames collected before it. -/
theorem execRlyIn_complete (s : State) (total : Word) (h1 : 4 ≤ total.toNat) (h2 : total.toNat ≤ 65536)
    (h3 : s.rly.active = true) (h4 : s.fb.bytes 0 4 = tagBytes .gscn) (h5 : frameIntact s.fb total.toNat = true)
    (h6 : s.rly.inRange = true) (h7 : (s.rly.cnt : Int) + 1 = s.rly.n.toInt) :
    execRlyIn total s =
      match average (s.rly.frames ++ [s.fb.bytes 0 total.toNat]) s.rly.m.toNat (pwdiv s.cfg) with
      | none => .refused .averageDomain
      | some f => .next ({ s.drawCrc with
        fb := s.fb.writeBytes 0 f
        rly := { s.rly.store (s.fb.bytes 0 total.toNat) with cnt := 0, active := false } }.succeed
          (BitVec.ofNat 32 f.length) 1#32) := by
  have a : ¬ relayLengthOk total.toNat = false := by simp; omega
  have r := (Relay.inRange_iff _).1 h6
  have hc : s.rly.cnt < 10 := by omega
  have em : (s32 s.rly.m).toNat = s.rly.m.toNat := s32_toNat (by simp only [s32]; omega)
  have ef := Relay.frames_store s.rly (s.fb.bytes 0 total.toNat) hc (by simp; omega)
  have hd : ¬ ((s.rly.store (s.fb.bytes 0 total.toNat)).cnt : Int) < s32 (s.rly.store (s.fb.bytes 0 total.toNat)).n := by
    rw [Relay.store_n, Relay.store_eq _ _ hc]
    push_cast
    simp only [s32]
    omega
  simp only [execRlyIn]
  rw [if_neg a, if_neg (by simp [h3, h4]), if_neg (by simp [h5]), if_neg (by simp [h6]), if_neg hd, Relay.store_m, em, ef]
  all_goals rfl

theorem execRlyIn_forward (s : State) (total : Word) {f : List Byte} (h1 : 4 ≤ total.toNat) (h2 : total.toNat ≤ 65536)
    (h3 : s.rly.active = true) (h4 : s.fb.bytes 0 4 = tagBytes .gscn) (h5 : frameIntact s.fb total.toNat = true)
    (h6 : s.rly.inRange = true) (h7 : (s.rly.cnt : Int) + 1 = s.rly.n.toInt)
    (h8 : average (s.rly.frames ++ [s.fb.bytes 0 total.toNat]) s.rly.m.toNat (pwdiv s.cfg) = some f) :
    execRlyIn total s = .next ({ s.drawCrc with
      fb := s.fb.writeBytes 0 f
      rly := { s.rly.store (s.fb.bytes 0 total.toNat) with cnt := 0, active := false } }.succeed
        (BitVec.ofNat 32 f.length) 1#32) := by
  rw [execRlyIn_complete s total h1 h2 h3 h4 h5 h6 h7, h8]

theorem execRlyIn_undefined (s : State) (total : Word) (h1 : 4 ≤ total.toNat) (h2 : total.toNat ≤ 65536)
    (h3 : s.rly.active = true) (h4 : s.fb.bytes 0 4 = tagBytes .gscn) (h5 : frameIntact s.fb total.toNat = true)
    (h6 : s.rly.inRange = true) (h7 : (s.rly.cnt : Int) + 1 = s.rly.n.toInt)
    (h8 : average (s.rly.frames ++ [s.fb.bytes 0 total.toNat]) s.rly.m.toNat (pwdiv s.cfg) = none) :
    execRlyIn total s = .refused .averageDomain := by
  rw [execRlyIn_complete s total h1 h2 h3 h4 h5 h6 h7, h8]

end Sys2Proof.Machine
end

