-- ==== Sys2Proof/Laws/Wire.lean ====
section
/-! SUPPORT. What the delivery of a byte string does (R113; log entry 2). -/

namespace Sys2Proof.Machine

@[simp] theorem deliver_nil (off : Nat) (s : State) : deliver off [] s = s := rfl

@[simp] theorem deliver_cons (off : Nat) (b : Byte) (l : List Byte) (s : State) :
    deliver off (b :: l) s = deliver (off + 1) l (bufWrite off b s) := rfl

/-- Delivering a byte string that fits the buffer writes exactly its bytes. -/
theorem deliver_fits (l : List Byte) (off : Nat) (s : State) (hl : l ≠ []) (h : off + l.length ≤ 65536) :
    deliver off l s = { s with fb := s.fb.writeBytes off l }.succeed 0#32 0#32 := by
  induction l generalizing off s with
  | nil => exact absurd rfl hl
  | cons b l ih =>
    simp only [List.length_cons] at h
    rw [deliver_cons, bufWrite_inside s b (by omega)]
    by_cases hl' : l = []
    · subst hl'
      rfl
    · rw [ih _ _ hl' (by omega)]
      rfl

/-- Whatever its length, a delivery changes only the frame buffer and the response. -/
theorem deliver_frame (l : List Byte) (off : Nat) (s : State) :
    ∃ m k, deliver off l s =
      { s with
        fb := m
        status := k
        res0 := (deliver off l s).res0
        res1 := (deliver off l s).res1 } := by
  induction l generalizing off s with
  | nil => exact ⟨s.fb, s.status, rfl⟩
  | cons b l ih =>
    obtain ⟨m, k, h⟩ := ih (off + 1) (bufWrite off b s)
    refine ⟨m, k, ?_⟩
    rw [deliver_cons, h]
    unfold bufWrite
    split <;> rfl

/-- A delivery keeps the canonical form of the frame buffer. -/
theorem deliver_wf (l : List Byte) (off : Nat) (s : State) (h : s.fb.wf Config.fbCap) :
    (deliver off l s).fb.wf Config.fbCap := by
  induction l generalizing off s with
  | nil => exact h
  | cons b l ih =>
    refine ih _ _ ?_
    unfold bufWrite
    split
    · rename_i hi
      exact Memory.write_wf _ h (by simp at hi; simp [Config.fbCap]; omega)
    · exact h

end Sys2Proof.Machine
end

