-- ==== Sys2Proof/Laws/Invariant.lean ====
section
/-! SUPPORT. Which updates of the state keep the invariant of Safety.lean: one lemma for each component and each shared
operation. -/

namespace Sys2Proof.Machine

/-- Every parameter set is one of R10: the type of `ERRCODE` says so. -/
theorem Params.wf_all (p : Params) : p.wf :=
  ⟨fun k h => p.errCode.property.1 ⟨k, h⟩, fun j k hj hk h =>
    Fin.mk.inj_iff.1 (p.errCode.property.2 ⟨j, hj⟩ ⟨k, hk⟩ h)⟩

/-- The response is outside the invariant (R21, R22). -/
theorem State.Inv.finish {s : State} (h : s.Inv) (k : Status) (r0 r1 : Word) : (s.finish k r0 r1).Inv :=
  ⟨h.1, h.2, h.3, h.4, h.5, h.6, h.7⟩

theorem State.Inv.succeed {s : State} (h : s.Inv) (r0 r1 : Word) : (s.succeed r0 r1).Inv := h.finish _ _ _

theorem State.Inv.raise {s : State} (h : s.Inv) (k : Status) (info : Word) : (s.raise k info).Inv := h.finish _ _ _

/-- So is the CRC register (R25). -/
theorem State.Inv.setCrc {s : State} (h : s.Inv) (r : Word) (d : Nat) : ({ s with crcR := r, draws := d } : State).Inv :=
  ⟨h.1, h.2, h.3, h.4, h.5, h.6, h.7⟩

theorem State.Inv.drawCrc {s : State} (h : s.Inv) : s.drawCrc.Inv := h.setCrc _ _

theorem State.Inv.raiseLength {s : State} (h : s.Inv) (n : Nat) : (s.raiseLength n).Inv :=
  (h.setCrc _ _).raise _ _

/-- So are the host's requests. -/
theorem State.Inv.setPort {s : State} (h : s.Inv) (p : List HostRequest) : ({ s with port := p } : State).Inv :=
  ⟨h.1, h.2, h.3, h.4, h.5, h.6, h.7⟩

theorem State.Inv.setFb {s : State} (h : s.Inv) (m : Memory) (hm : m.wf Config.fbCap) : ({ s with fb := m } : State).Inv :=
  ⟨hm, h.2, h.3, h.4, h.5, h.6, h.7⟩

theorem State.Inv.setSr {s : State} (h : s.Inv) (sr : ScanRecord) (hs : sr.wf) : ({ s with sr := sr } : State).Inv :=
  ⟨h.1, h.2, h.3, h.4, hs, h.6, h.7⟩

theorem State.Inv.setRly {s : State} (h : s.Inv) (r : Relay) (h1 : r.wf s.params) (h2 : r.storesWf) :
    ({ s with rly := r } : State).Inv :=
  ⟨h.1, h.2, h.3, h.4, h.5, h1, h2⟩

/-- The end of a command cycle (R200). -/
theorem State.Inv.endCycle {s : State} (h : s.Inv) : ({ s with csmSt := .idle, csmCls := none } : State).Inv :=
  ⟨h.1, h.2, (fun hh => nomatch hh), h.4, h.5, h.6, h.7⟩

/-- A write of bytes inside the buffer. -/
theorem Memory.writeBytes_fb {m : Memory} {a : Nat} (l : List Byte) (h : m.wf Config.fbCap) (ha : a + l.length ≤ 65536) :
    (m.writeBytes a l).wf Config.fbCap :=
  Memory.writeBytes_wf l h ha

/-- The conversion of a region inside the buffer (R170). -/
theorem State.Inv.swapRegion {s : State} (h : s.Inv) {n : Nat} (hn : n ≤ 65536) : (s.swapRegion n).Inv := by
  refine h.setFb _ ?_
  by_cases h4 : 4 ≤ n
  · exact Memory.writeBytes_fb _ h.1 (by simp; omega)
  · have e : n - 4 = 0 := by omega
    rw [e]
    exact h.1

/-- A build (R201): no class has more than two payload words. -/
theorem State.Inv.build {s : State} (h : s.Inv) (x : CmdClass) (ws : List Word) (hl : ws.length ≤ 2) :
    (s.build x ws).Inv := by
  refine ⟨?_, h.2, (fun hh => nomatch hh), by simp [Config.fbCap], ?_, h.6, h.7⟩
  · exact Memory.writeBytes_fb _ h.1 (by simp; omega)
  · rw [State.build_sr]
    split
    · exact .inl rfl
    · exact h.5

/-- The delivery of a byte string (R113). -/
theorem State.Inv.deliver {s : State} (h : s.Inv) (l : List Byte) : (deliver 0 l s).Inv := by
  obtain ⟨m, k, e⟩ := deliver_frame l 0 s
  have hw := deliver_wf l 0 s h.1
  rw [e] at hw ⊢
  exact ⟨hw, h.2, h.3, h.4, h.5, h.6, h.7⟩

/-- A replay (R290). -/
theorem State.Inv.replay {s : State} (h : s.Inv) (action : Word) : (s.replay action).Inv :=
  (h.setFb _ (Memory.writeBytes_fb _ h.1 (by simp [Config.gscnReqLen]))).succeed _ _

/-- With no cycle active, the accumulator is well formed when it holds no frame (R33). -/
theorem Relay.wf_inactive {r : Relay} {p : Params} (h1 : r.active = false) (h2 : r.cnt = 0) : r.wf p := by
  unfold Relay.wf
  rw [if_neg (by simp [h1])]
  exact h2

/-- With a cycle active, what well-formedness is (R33). -/
theorem Relay.wf_active {r : Relay} {p : Params} (h : r.active = true) :
    r.wf p ↔ r.inRange = true ∧ r.lastOut.Holds 0 (plainRequest p) ∧
      ∀ k (_ : k < 10), k < r.cnt → (r.slot[k]).len.toNat ≤ Config.fbCap := by
  unfold Relay.wf
  rw [if_pos h]

/-- A frame put into a store keeps the store's canonical form. -/
theorem Store.put_wf {st : Store} {l : List Byte} (h : st.bytes.wf Config.fbCap) (hl : l.length ≤ 65536) :
    (st.put l).bytes.wf Config.fbCap :=
  Memory.writeBytes_fb _ h (by omega)

/-- Storing a frame keeps the byte stores canonical (R290). -/
theorem Relay.store_storesWf {r : Relay} (h : r.storesWf) (f : List Byte) (hf : f.length ≤ 65536) :
    (r.store f).storesWf := by
  unfold Relay.store
  split
  · refine ⟨fun k hk => ?_, h.2⟩
    simp only [Vector.getElem_set]
    split
    · exact Store.put_wf (h.1 _ _) hf
    · exact h.1 _ _
  · exact h

/-- Storing a frame keeps the bound on the stored frames' lengths (R34, R290). -/
theorem Relay.store_lengths {r : Relay} {f : List Byte} (hf : f.length ≤ 65536) (hc : r.cnt < 10)
    (h : ∀ k (_ : k < 10), k < r.cnt → (r.slot[k]).len.toNat ≤ Config.fbCap) :
    ∀ k (_ : k < 10), k < r.cnt + 1 → ((r.store f).slot[k]).len.toNat ≤ Config.fbCap := by
  intro k hk hk1
  simp only [Relay.store_eq r f hc, Vector.getElem_set]
  split
  · simp [Config.fbCap]
    omega
  · exact h k hk (by omega)

end Sys2Proof.Machine
end

