-- ==== Sys2Proof/Laws/PerInstr.lean ====
section
/-! SUPPORT. A family of statements about the instructions as syntax, one lemma for each constructor: the shape of the request
that carries an instruction (R90, R91, R108). -/

namespace Sys2Proof.Laws.RequestShape

open Sys2Proof Sys2Proof.Machine

/-- The request of an instruction is an operation word whose unused third operand is 0 (R108), or the bytes of a frame of one of
the eight tags, no shorter than the smallest frame (R62, R92); the reset input carries no instruction (R391). -/
def Statement (i : Instr) : Prop :=
  match encode i with
  | .op w => a2Field w = 0
  | .frame l => 12 ≤ l.length ∧ (tagOf l).isSome = true
  | .hwReset => False

/-- An operation word made of a code and two operands has its third operand 0. -/
theorem opWord_shape (opc : Byte) (a0 a1 : Word) : a2Field (opWord opc a0 a1) = 0 := a2Field_opWord opc a0 a1

/-- The bytes of a frame. -/
theorem frame_shape (t : Tag) (length : Word) (payload : List Byte) (crc : Word) :
    12 ≤ (frameBytes t length payload crc).length ∧ (tagOf (frameBytes t length payload crc)).isSome = true := by
  rw [tagOf_frameBytes, frameBytes_length]
  exact ⟨Nat.le_add_right .., rfl⟩

theorem sysNop : Statement .sysNop := opWord_shape _ _ _

theorem crcReset : Statement .crcReset := opWord_shape _ _ _

theorem crcUpdate (off len : Word) : Statement (.crcUpdate off len) := opWord_shape _ _ _

theorem crcFinal : Statement .crcFinal := opWord_shape _ _ _

theorem crcCompute (off len : Word) : Statement (.crcCompute off len) := opWord_shape _ _ _

theorem bufRd (off : Word) : Statement (.bufRd off) := opWord_shape _ _ _

theorem bufWr (off b : Word) : Statement (.bufWr off b) := opWord_shape _ _ _

theorem frmGet32 (off : Word) : Statement (.frmGet32 off) := opWord_shape _ _ _

theorem frmPut32 (off v : Word) : Statement (.frmPut32 off v) := opWord_shape _ _ _

theorem frmStamp (total : Word) : Statement (.frmStamp total) := opWord_shape _ _ _

theorem frmVerify (total : Word) : Statement (.frmVerify total) := opWord_shape _ _ _

theorem frmH2n (total : Word) : Statement (.frmH2n total) := opWord_shape _ _ _

theorem frmN2h (total : Word) : Statement (.frmN2h total) := opWord_shape _ _ _

theorem cmdGver : Statement .cmdGver := opWord_shape _ _ _

theorem cmdGprm (id : Word) : Statement (.cmdGprm id) := opWord_shape _ _ _

theorem cmdSprm (id value : Word) : Statement (.cmdSprm id value) := opWord_shape _ _ _

theorem cmdGpin (id : Word) : Statement (.cmdGpin id) := opWord_shape _ _ _

theorem cmdScan (w : Word) : Statement (.cmdScan w) := opWord_shape _ _ _

theorem cmdGscn (scanNumber : Word) : Statement (.cmdGscn scanNumber) := opWord_shape _ _ _

theorem cmdGsc2 (n m : Word) : Statement (.cmdGsc2 n m) := opWord_shape _ _ _

theorem cmdTxdone (w : Word) : Statement (.cmdTxdone w) := opWord_shape _ _ _

theorem cmdRxdone (r : Word) : Statement (.cmdRxdone r) := opWord_shape _ _ _

theorem cmdRdout (sel : Word) : Statement (.cmdRdout sel) := opWord_shape _ _ _

theorem cmdErrmap (c : Word) : Statement (.cmdErrmap c) := opWord_shape _ _ _

theorem scnParse (total : Word) : Statement (.scnParse total) := opWord_shape _ _ _

theorem scnClear : Statement .scnClear := opWord_shape _ _ _

theorem scnInfo : Statement .scnInfo := opWord_shape _ _ _

theorem scnGetp (idx : Word) : Statement (.scnGetp idx) := opWord_shape _ _ _

theorem scnGetd (p e : Word) : Statement (.scnGetd p e) := opWord_shape _ _ _

theorem scnGetw (p e : Word) : Statement (.scnGetw p e) := opWord_shape _ _ _

theorem rlyOut (total : Word) : Statement (.rlyOut total) := opWord_shape _ _ _

theorem rlyIn (total : Word) : Statement (.rlyIn total) := opWord_shape _ _ _

theorem rlyReset : Statement .rlyReset := opWord_shape _ _ _

theorem sysReset : Statement .sysReset := opWord_shape _ _ _

theorem sysCfg (v : Word) : Statement (.sysCfg v) := opWord_shape _ _ _

theorem sysRdcfg : Statement .sysRdcfg := opWord_shape _ _ _

theorem tagGver (length : Word) (payload : List Byte) (crc : Word) :
    Statement (.tagGver length payload crc) := frame_shape _ _ _ _

theorem tagGprm (length : Word) (payload : List Byte) (crc : Word) :
    Statement (.tagGprm length payload crc) := frame_shape _ _ _ _

theorem tagSprm (length : Word) (payload : List Byte) (crc : Word) :
    Statement (.tagSprm length payload crc) := frame_shape _ _ _ _

theorem tagGpin (length : Word) (payload : List Byte) (crc : Word) :
    Statement (.tagGpin length payload crc) := frame_shape _ _ _ _

theorem tagScan (length : Word) (payload : List Byte) (crc : Word) :
    Statement (.tagScan length payload crc) := frame_shape _ _ _ _

theorem tagGscn (length : Word) (payload : List Byte) (crc : Word) :
    Statement (.tagGscn length payload crc) := frame_shape _ _ _ _

theorem tagGsc2 (length : Word) (payload : List Byte) (crc : Word) :
    Statement (.tagGsc2 length payload crc) := frame_shape _ _ _ _

theorem tagErr (length : Word) (payload : List Byte) (crc : Word) :
    Statement (.tagErr length payload crc) := frame_shape _ _ _ _

end Sys2Proof.Laws.RequestShape
end

