-- ==== Sys2Proof/Tests/Slice0.lean ====
section
/-! SUPPORT. The model's own tests. Expected values are those of spec/95_test_vectors.md (derived there from the rules) unless a
comment says otherwise; decoded words are written out from R108 to R110 and R91 to R103. The witness theorems meet the hypotheses
of the statements in Certificates/Slice0/Obligations.lean. -/

namespace Sys2Proof.Tests

set_option Elab.async false

open Sys2Proof Sys2Proof.Machine

/-! ### Helpers -/

/-- The state after reset with a byte string in `FB[0..)`. -/
def loaded (l : List Byte) : State :=
  { State.reset with fb := { draw := 0, cells := l.mapIdx fun k b => (k, b) } }

/-- The same in a command cycle of the given class, its request sent (R200). -/
def sentWith (x : CmdClass) (l : List Byte) : State := { loaded l with csmSt := .sent, csmCls := some x }

/-- The same with the frame converted to host order (R171). -/
def hostOrder (l : List Byte) : State := (loaded l).swapRegion l.length

/-- The same in an averaging cycle of `n` scans and groups of `m` points that holds the given frames (R33). -/
def relaying (n m : Word) (held : List (List Byte)) (l : List Byte) : State :=
  { loaded l with
    rly := (held.foldl (fun r f => r.store f)
      { State.reset.rly with
        active := true, n := n, m := m, cnt := 0
        lastOut := State.reset.rly.lastOut.writeBytes 0 (plainRequest Params.default) }) }

/-- `STATUS`, `RES0` and `RES1` of a next state. -/
def response : Result → Option (Status × Word × Word)
  | .next s => some (s.status, s.res0, s.res1)
  | _ => none

/-- The reason of a refusal. -/
def refusal : Result → Option Refusal
  | .refused r => some r
  | _ => none

/-- The first bytes of `FB` in a next state. -/
def buffer (n : Nat) : Result → List Byte
  | .next s => s.fb.bytes 0 n
  | _ => []

/-- Some field of a next state. -/
def field {α : Type} (f : State → α) : Result → Option α
  | .next s => some (f s)
  | _ => none

/-! ### Frames of spec/95_test_vectors.md, section 0 -/

/-- `Q_GVER`. -/
def qGver : List Byte :=
  [0x47, 0x56, 0x45, 0x52, 0x00, 0x00, 0x00, 0x00, 0x1B, 0x39, 0xCF, 0x64]

/-- `Q_GPRM5`. -/
def qGprm : List Byte :=
  [0x47, 0x50, 0x52, 0x4D, 0x00, 0x00, 0x00, 0x04, 0x00, 0x00, 0x00, 0x05, 0x50, 0x46, 0xA5, 0x5E]

/-- `Q_SPRM`. -/
def qSprm : List Byte :=
  [0x53, 0x50, 0x52, 0x4D, 0x00, 0x00, 0x00, 0x08, 0x00, 0x00, 0x00, 0x05, 0x00, 0x00, 0x00, 0x64, 0x86, 0x90, 0xA5,
   0x3D]

/-- `Q_GPIN5`. -/
def qGpin : List Byte :=
  [0x47, 0x50, 0x49, 0x4E, 0x00, 0x00, 0x00, 0x04, 0x00, 0x00, 0x00, 0x05, 0xB6, 0x85, 0xE3, 0x84]

/-- `Q_SCAN1`. -/
def qScan : List Byte :=
  [0x53, 0x43, 0x41, 0x4E, 0x00, 0x00, 0x00, 0x04, 0x00, 0x00, 0x00, 0x01, 0x9A, 0x35, 0x13, 0x20]

/-- `Q_GSCN0`. -/
def qGscn : List Byte :=
  [0x47, 0x53, 0x43, 0x4E, 0x00, 0x00, 0x00, 0x04, 0x00, 0x00, 0x00, 0x00, 0x48, 0x2F, 0xE1, 0xC3]

/-- `Q_GSC2_22`. -/
def qGsc2 : List Byte :=
  [0x47, 0x53, 0x43, 0x32, 0x00, 0x00, 0x00, 0x08, 0x00, 0x00, 0x00, 0x02, 0x00, 0x00, 0x00, 0x02, 0xD5, 0x33, 0xD1,
   0x8B]

/-- `Q_GSC2_31`. -/
def qGsc2Pass : List Byte :=
  [0x47, 0x53, 0x43, 0x32, 0x00, 0x00, 0x00, 0x08, 0x00, 0x00, 0x00, 0x03, 0x00, 0x00, 0x00, 0x01, 0x71, 0x5A, 0xA9,
   0x81]

/-- `A_GVER`. -/
def aGver : List Byte :=
  [0x47, 0x56, 0x45, 0x52, 0x00, 0x00, 0x00, 0x08, 0x76, 0x31, 0x2E, 0x32, 0x2E, 0x33, 0x00, 0x00, 0x60, 0xE7, 0xF6,
   0x31]

/-- `A_GPRM42`. -/
def aGprm : List Byte :=
  [0x47, 0x50, 0x52, 0x4D, 0x00, 0x00, 0x00, 0x04, 0x00, 0x00, 0x00, 0x2A, 0xFB, 0x97, 0x98, 0x07]

/-- `A_GPIN`. -/
def aGpin : List Byte :=
  [0x47, 0x50, 0x49, 0x4E, 0x00, 0x00, 0x00, 0x14, 0x00, 0x00, 0x00, 0x2A, 0x00, 0x00, 0x00, 0x00, 0x00, 0x00, 0x00,
   0x64, 0x72, 0x61, 0x6E, 0x67, 0x65, 0x00, 0x00, 0x00, 0x0D, 0x7F, 0x73, 0xFC]

/-- `A_SCAN`. -/
def aScan : List Byte :=
  [0x53, 0x43, 0x41, 0x4E, 0x00, 0x00, 0x00, 0x00, 0xE8, 0xAF, 0x7B, 0x49]

/-- `A_ERRm7`. -/
def aErr : List Byte :=
  [0x45, 0x52, 0x52, 0x00, 0x00, 0x00, 0x00, 0x04, 0xFF, 0xFF, 0xFF, 0xF9, 0x8C, 0x7E, 0x17, 0x09]

/-- `A_ERRshort`. -/
def aErrShort : List Byte :=
  [0x45, 0x52, 0x52, 0x00, 0x00, 0x00, 0x00, 0x00, 0xF1, 0x53, 0x42, 0x82]

/-- `A_GPRModd`. -/
def aGprmOdd : List Byte :=
  [0x47, 0x50, 0x52, 0x4D, 0x00, 0x00, 0x00, 0x01, 0x01, 0x60, 0x4C, 0x69, 0x5D]

/-- `S2`. -/
def scan2 : List Byte :=
  [0x47, 0x53, 0x43, 0x4E, 0x00, 0x00, 0x00, 0x50, 0x00, 0x00, 0x00, 0x0A, 0x00, 0x00, 0x00, 0x01, 0x00, 0x00, 0x00,
   0x00, 0x00, 0x00, 0x00, 0x00, 0x00, 0x00, 0x00, 0x00, 0x00, 0x00, 0x00, 0x02, 0x00, 0x00, 0x00, 0x00, 0x00, 0x00,
   0x00, 0x00, 0x00, 0x00, 0x00, 0x00, 0x00, 0x00, 0x00, 0x08, 0x00, 0x00, 0x00, 0x00, 0x00, 0x00, 0x00, 0x02, 0x00,
   0x00, 0x00, 0x64, 0x00, 0x00, 0x00, 0x0A, 0x80, 0x00, 0x00, 0x00, 0x00, 0x00, 0x00, 0x03, 0xFF, 0xFF, 0xFF, 0xFB,
   0x00, 0x00, 0x00, 0x14, 0x7F, 0xFF, 0xFF, 0xFF, 0xFF, 0xFF, 0xFF, 0xFF, 0x61, 0x92, 0x21, 0xBE]

/-- `S5`. -/
def scan5 : List Byte :=
  [0x47, 0x53, 0x43, 0x4E, 0x00, 0x00, 0x00, 0x08, 0x00, 0x00, 0x00, 0x00, 0x00, 0x00, 0x00, 0x00, 0x61, 0xB3, 0x26,
   0xB8]

/-- `O1`. -/
def over1 : List Byte :=
  [0x47, 0x53, 0x43, 0x4E, 0x00, 0x00, 0x00, 0x30, 0x00, 0x00, 0x00, 0x0A, 0x00, 0x00, 0x00, 0x00, 0x00, 0x00, 0x00,
   0x00, 0x00, 0x00, 0x00, 0x00, 0x00, 0x00, 0x00, 0x00, 0x00, 0x00, 0x00, 0x01, 0x00, 0x00, 0x00, 0x00, 0x00, 0x00,
   0x00, 0x00, 0x00, 0x00, 0x00, 0x00, 0x00, 0x00, 0x00, 0x04, 0x00, 0x00, 0x00, 0x00, 0x00, 0x00, 0x0F, 0xA1, 0xFB,
   0x54, 0xDE, 0x99]

/-- `O2`. -/
def over2 : List Byte :=
  [0x47, 0x53, 0x43, 0x4E, 0x00, 0x00, 0x00, 0x44, 0x00, 0x00, 0x00, 0x0A, 0x00, 0x00, 0x00, 0x00, 0x00, 0x00, 0x00,
   0x00, 0x00, 0x00, 0x00, 0x00, 0x00, 0x00, 0x00, 0x00, 0x00, 0x00, 0x00, 0x05, 0x00, 0x00, 0x00, 0x00, 0x00, 0x00,
   0x00, 0x00, 0x00, 0x00, 0x00, 0x00, 0x00, 0x00, 0x00, 0x04, 0x00, 0x00, 0x00, 0x00, 0x00, 0x00, 0x00, 0x01, 0x00,
   0x00, 0x00, 0x01, 0x00, 0x00, 0x00, 0x02, 0x00, 0x00, 0x00, 0x03, 0x00, 0x00, 0x00, 0x04, 0x00, 0x00, 0x00, 0x05,
   0x48, 0xBD, 0x66, 0xA5]

/-- `Z`. -/
def scanZ : List Byte :=
  [0x47, 0x53, 0x43, 0x4E, 0x00, 0x00, 0x00, 0x30, 0x00, 0x00, 0x00, 0x0A, 0x00, 0x00, 0x00, 0x01, 0x00, 0x00, 0x00,
   0x00, 0x00, 0x00, 0x00, 0x00, 0x00, 0x00, 0x00, 0x00, 0x00, 0x00, 0x00, 0x00, 0x00, 0x00, 0x00, 0x00, 0x00, 0x00,
   0x00, 0x00, 0x00, 0x00, 0x00, 0x00, 0x00, 0x00, 0x00, 0x04, 0x00, 0x00, 0x00, 0x00, 0x00, 0x00, 0x00, 0x00, 0x90,
   0x81, 0x51, 0x87]

/-- `P0`. -/
def pulse0 : List Byte :=
  [0x47, 0x53, 0x43, 0x4E, 0x00, 0x00, 0x00, 0x48, 0x00, 0x00, 0x00, 0x0A, 0x00, 0x00, 0x00, 0x01, 0x00, 0x00, 0x00,
   0x00, 0x00, 0x00, 0x00, 0x00, 0x00, 0x00, 0x00, 0x00, 0x00, 0x00, 0x00, 0x01, 0x00, 0x00, 0x00, 0x00, 0x00, 0x00,
   0x00, 0x00, 0x00, 0x00, 0x00, 0x00, 0x00, 0x00, 0x00, 0x08, 0x00, 0x00, 0x00, 0x00, 0x00, 0x00, 0x00, 0x03, 0x80,
   0x00, 0x00, 0x00, 0x77, 0x35, 0x94, 0x00, 0x00, 0x00, 0x00, 0x0A, 0xFF, 0xFF, 0xFF, 0xF9, 0x80, 0x00, 0x00, 0x00,
   0x00, 0x00, 0x00, 0x05, 0x1D, 0xEF, 0x4E, 0x79]

/-- `P1`. -/
def pulse1 : List Byte :=
  [0x47, 0x53, 0x43, 0x4E, 0x00, 0x00, 0x00, 0x48, 0x00, 0x00, 0x00, 0x0A, 0x00, 0x00, 0x00, 0x02, 0x00, 0x00, 0x00,
   0x00, 0x00, 0x00, 0x00, 0x00, 0x00, 0x00, 0x00, 0x00, 0x00, 0x00, 0x00, 0x01, 0x00, 0x00, 0x00, 0x00, 0x00, 0x00,
   0x00, 0x00, 0x00, 0x00, 0x00, 0x00, 0x00, 0x00, 0x00, 0x08, 0x00, 0x00, 0x00, 0x00, 0x00, 0x00, 0x00, 0x03, 0x00,
   0x00, 0x00, 0x07, 0x77, 0x35, 0x94, 0x00, 0x00, 0x00, 0x00, 0x14, 0xFF, 0xFF, 0xFF, 0xF8, 0x80, 0x00, 0x00, 0x00,
   0x00, 0x00, 0x00, 0x06, 0xA3, 0x6D, 0x23, 0xB3]

/-! ### WellFormed (R62) -/

theorem test_wf_frame : WellFormed (.tagGver 0x00000000#32 [] 0x1B39CF64#32) := by decide

/-- A frame of 65537 bytes does not fit the buffer: each frame row's check refuses it. -/
theorem test_wf_refuses_oversized_payload : frameFits (List.replicate 65525 0#8) = false :=
  decide_eq_false (by rw [List.length_replicate]; decide)

theorem test_wf_refuses_oversized_frames (n c : Word) (l : List Byte) (h : frameFits l = false) :
    ¬WellFormed (.tagGver n l c) ∧ ¬WellFormed (.tagGprm n l c) ∧ ¬WellFormed (.tagSprm n l c) ∧
    ¬WellFormed (.tagGpin n l c) ∧ ¬WellFormed (.tagScan n l c) ∧ ¬WellFormed (.tagGscn n l c) ∧
    ¬WellFormed (.tagGsc2 n l c) ∧ ¬WellFormed (.tagErr n l c) := by
  simp [WellFormed, Instr.wf, h]

/-! ### Decoding: words written out from R108 (`a2 a1 a0 opc`) and R110, frames from R91 and R92 -/

theorem test_decode_sys :
    decode (.op 0x00000000000000000000000000#104) = .ok .sysNop ∧
    decode (.op 0x000000000000000000000000F0#104) = .ok .sysReset ∧
    decode (.op 0x000000000000000089ABCDEFF1#104) = .ok (.sysCfg 0x89ABCDEF#32) ∧
    decode (.op 0x000000000000000000000000F2#104) = .ok .sysRdcfg := by
  decide +kernel

theorem test_decode_crc :
    decode (.op 0x00000000000000000000000001#104) = .ok .crcReset ∧
    decode (.op 0x000000000123456789ABCDEF02#104) = .ok (.crcUpdate 0x89ABCDEF#32 0x01234567#32) ∧
    decode (.op 0x00000000000000000000000003#104) = .ok .crcFinal ∧
    decode (.op 0x000000000123456789ABCDEF04#104) = .ok (.crcCompute 0x89ABCDEF#32 0x01234567#32) := by
  decide +kernel

theorem test_decode_frm :
    decode (.op 0x000000000000000089ABCDEF08#104) = .ok (.bufRd 0x89ABCDEF#32) ∧
    decode (.op 0x000000000123456789ABCDEF09#104) = .ok (.bufWr 0x89ABCDEF#32 0x01234567#32) ∧
    decode (.op 0x000000000000000089ABCDEF0A#104) = .ok (.frmGet32 0x89ABCDEF#32) ∧
    decode (.op 0x000000000123456789ABCDEF0B#104) = .ok (.frmPut32 0x89ABCDEF#32 0x01234567#32) ∧
    decode (.op 0x000000000000000089ABCDEF10#104) = .ok (.frmStamp 0x89ABCDEF#32) ∧
    decode (.op 0x000000000000000089ABCDEF11#104) = .ok (.frmVerify 0x89ABCDEF#32) ∧
    decode (.op 0x000000000000000089ABCDEF12#104) = .ok (.frmH2n 0x89ABCDEF#32) ∧
    decode (.op 0x000000000000000089ABCDEF13#104) = .ok (.frmN2h 0x89ABCDEF#32) := by
  decide +kernel

theorem test_decode_cmd :
    decode (.op 0x00000000000000000000000020#104) = .ok .cmdGver ∧
    decode (.op 0x000000000000000089ABCDEF21#104) = .ok (.cmdGprm 0x89ABCDEF#32) ∧
    decode (.op 0x000000000123456789ABCDEF22#104) = .ok (.cmdSprm 0x89ABCDEF#32 0x01234567#32) ∧
    decode (.op 0x000000000000000089ABCDEF23#104) = .ok (.cmdGpin 0x89ABCDEF#32) ∧
    decode (.op 0x000000000000000089ABCDEF24#104) = .ok (.cmdScan 0x89ABCDEF#32) ∧
    decode (.op 0x000000000000000089ABCDEF25#104) = .ok (.cmdGscn 0x89ABCDEF#32) ∧
    decode (.op 0x000000000123456789ABCDEF26#104) = .ok (.cmdGsc2 0x89ABCDEF#32 0x01234567#32) ∧
    decode (.op 0x000000000000000089ABCDEF28#104) = .ok (.cmdTxdone 0x89ABCDEF#32) ∧
    decode (.op 0x000000000000000089ABCDEF29#104) = .ok (.cmdRxdone 0x89ABCDEF#32) ∧
    decode (.op 0x000000000000000089ABCDEF2A#104) = .ok (.cmdRdout 0x89ABCDEF#32) ∧
    decode (.op 0x000000000000000089ABCDEF2B#104) = .ok (.cmdErrmap 0x89ABCDEF#32) := by
  decide +kernel

theorem test_decode_scn :
    decode (.op 0x000000000000000089ABCDEF30#104) = .ok (.scnParse 0x89ABCDEF#32) ∧
    decode (.op 0x00000000000000000000000031#104) = .ok .scnClear ∧
    decode (.op 0x00000000000000000000000032#104) = .ok .scnInfo ∧
    decode (.op 0x000000000000000089ABCDEF33#104) = .ok (.scnGetp 0x89ABCDEF#32) ∧
    decode (.op 0x000000000123456789ABCDEF34#104) = .ok (.scnGetd 0x89ABCDEF#32 0x01234567#32) ∧
    decode (.op 0x000000000123456789ABCDEF35#104) = .ok (.scnGetw 0x89ABCDEF#32 0x01234567#32) := by
  decide +kernel

theorem test_decode_rly :
    decode (.op 0x000000000000000089ABCDEF40#104) = .ok (.rlyOut 0x89ABCDEF#32) ∧
    decode (.op 0x000000000000000089ABCDEF41#104) = .ok (.rlyIn 0x89ABCDEF#32) ∧
    decode (.op 0x00000000000000000000000042#104) = .ok .rlyReset := by
  decide +kernel

theorem test_decode_frames :
    decode (.frame qGver) = .ok (.tagGver 0#32 [] 0x1B39CF64#32) ∧
    decode (.frame qGprm) = .ok (.tagGprm 4#32 [0x00, 0x00, 0x00, 0x05] 0x5046A55E#32) ∧
    decode (.frame qSprm) = .ok (.tagSprm 8#32 [0x00, 0x00, 0x00, 0x05, 0x00, 0x00, 0x00, 0x64] 0x8690A53D#32) ∧
    decode (.frame qGpin) = .ok (.tagGpin 4#32 [0x00, 0x00, 0x00, 0x05] 0xB685E384#32) ∧
    decode (.frame qScan) = .ok (.tagScan 4#32 [0x00, 0x00, 0x00, 0x01] 0x9A351320#32) ∧
    decode (.frame qGscn) = .ok (.tagGscn 4#32 [0x00, 0x00, 0x00, 0x00] 0x482FE1C3#32) ∧
    decode (.frame qGsc2) = .ok (.tagGsc2 8#32 [0x00, 0x00, 0x00, 0x02, 0x00, 0x00, 0x00, 0x02] 0xD533D18B#32) ∧
    decode (.frame aErr) = .ok (.tagErr 4#32 [0xFF, 0xFF, 0xFF, 0xF9] 0x8C7E1709#32) := by
  decide +kernel

/-- R111, R106, R62: a reserved code, an unknown tag (`"ERR "`) and a byte string of 11 bytes are rejected by name. -/
theorem test_decode_rejects :
    decode (.op 0x00000000000000000000000005#104) = .error (.unknownOpcode 0x05#8) ∧
    decode (.op 0x000000009ABCDEF012345678FF#104) = .error (.unknownOpcode 0xFF#8) ∧
    decode (.frame [0x45, 0x52, 0x52, 0x20, 0, 0, 0, 0, 0, 0, 0, 0]) = .error .unknownTag ∧
    decode (.frame [0x47, 0x56, 0x45, 0x52, 0, 0, 0, 0, 0, 0, 0]) = .error .frameTooShort ∧
    decode .hwReset = .error .resetInput := by
  decide +kernel

/-- The opcode table's numbering of an operation row and of a frame row (log entry 3). -/
theorem test_table_words :
    decodeTableWord 8 0x04 = some (.crcCompute 0#32 0#32) ∧
    decodeTableWord 32 0x47534332 = some (.tagGsc2 0#32 [] 0#32) ∧
    decodeTableWord 32 0x45525200 = some (.tagErr 0#32 [] 0#32) ∧
    decodeTableWord 8 0x05 = none := by
  decide +kernel

/-! ### The CRC table, the 256 values R132 lists -/

theorem test_crc_table_0 : (List.range' 0 32).map (fun k => crcTable (BitVec.ofNat 8 k)) =
    [0x00000000#32, 0x77073096#32, 0xEE0E612C#32, 0x990951BA#32, 0x076DC419#32, 0x706AF48F#32, 0xE963A535#32, 0x9E6495A3#32,
     0x0EDB8832#32, 0x79DCB8A4#32, 0xE0D5E91E#32, 0x97D2D988#32, 0x09B64C2B#32, 0x7EB17CBD#32, 0xE7B82D07#32, 0x90BF1D91#32,
     0x1DB71064#32, 0x6AB020F2#32, 0xF3B97148#32, 0x84BE41DE#32, 0x1ADAD47D#32, 0x6DDDE4EB#32, 0xF4D4B551#32, 0x83D385C7#32,
     0x136C9856#32, 0x646BA8C0#32, 0xFD62F97A#32, 0x8A65C9EC#32, 0x14015C4F#32, 0x63066CD9#32, 0xFA0F3D63#32, 0x8D080DF5#32] := by
  decide +kernel

theorem test_crc_table_1 : (List.range' 32 32).map (fun k => crcTable (BitVec.ofNat 8 k)) =
    [0x3B6E20C8#32, 0x4C69105E#32, 0xD56041E4#32, 0xA2677172#32, 0x3C03E4D1#32, 0x4B04D447#32, 0xD20D85FD#32, 0xA50AB56B#32,
     0x35B5A8FA#32, 0x42B2986C#32, 0xDBBBC9D6#32, 0xACBCF940#32, 0x32D86CE3#32, 0x45DF5C75#32, 0xDCD60DCF#32, 0xABD13D59#32,
     0x26D930AC#32, 0x51DE003A#32, 0xC8D75180#32, 0xBFD06116#32, 0x21B4F4B5#32, 0x56B3C423#32, 0xCFBA9599#32, 0xB8BDA50F#32,
     0x2802B89E#32, 0x5F058808#32, 0xC60CD9B2#32, 0xB10BE924#32, 0x2F6F7C87#32, 0x58684C11#32, 0xC1611DAB#32, 0xB6662D3D#32] := by
  decide +kernel

theorem test_crc_table_2 : (List.range' 64 32).map (fun k => crcTable (BitVec.ofNat 8 k)) =
    [0x76DC4190#32, 0x01DB7106#32, 0x98D220BC#32, 0xEFD5102A#32, 0x71B18589#32, 0x06B6B51F#32, 0x9FBFE4A5#32, 0xE8B8D433#32,
     0x7807C9A2#32, 0x0F00F934#32, 0x9609A88E#32, 0xE10E9818#32, 0x7F6A0DBB#32, 0x086D3D2D#32, 0x91646C97#32, 0xE6635C01#32,
     0x6B6B51F4#32, 0x1C6C6162#32, 0x856530D8#32, 0xF262004E#32, 0x6C0695ED#32, 0x1B01A57B#32, 0x8208F4C1#32, 0xF50FC457#32,
     0x65B0D9C6#32, 0x12B7E950#32, 0x8BBEB8EA#32, 0xFCB9887C#32, 0x62DD1DDF#32, 0x15DA2D49#32, 0x8CD37CF3#32, 0xFBD44C65#32] := by
  decide +kernel

theorem test_crc_table_3 : (List.range' 96 32).map (fun k => crcTable (BitVec.ofNat 8 k)) =
    [0x4DB26158#32, 0x3AB551CE#32, 0xA3BC0074#32, 0xD4BB30E2#32, 0x4ADFA541#32, 0x3DD895D7#32, 0xA4D1C46D#32, 0xD3D6F4FB#32,
     0x4369E96A#32, 0x346ED9FC#32, 0xAD678846#32, 0xDA60B8D0#32, 0x44042D73#32, 0x33031DE5#32, 0xAA0A4C5F#32, 0xDD0D7CC9#32,
     0x5005713C#32, 0x270241AA#32, 0xBE0B1010#32, 0xC90C2086#32, 0x5768B525#32, 0x206F85B3#32, 0xB966D409#32, 0xCE61E49F#32,
     0x5EDEF90E#32, 0x29D9C998#32, 0xB0D09822#32, 0xC7D7A8B4#32, 0x59B33D17#32, 0x2EB40D81#32, 0xB7BD5C3B#32, 0xC0BA6CAD#32] := by
  decide +kernel

theorem test_crc_table_4 : (List.range' 128 32).map (fun k => crcTable (BitVec.ofNat 8 k)) =
    [0xEDB88320#32, 0x9ABFB3B6#32, 0x03B6E20C#32, 0x74B1D29A#32, 0xEAD54739#32, 0x9DD277AF#32, 0x04DB2615#32, 0x73DC1683#32,
     0xE3630B12#32, 0x94643B84#32, 0x0D6D6A3E#32, 0x7A6A5AA8#32, 0xE40ECF0B#32, 0x9309FF9D#32, 0x0A00AE27#32, 0x7D079EB1#32,
     0xF00F9344#32, 0x8708A3D2#32, 0x1E01F268#32, 0x6906C2FE#32, 0xF762575D#32, 0x806567CB#32, 0x196C3671#32, 0x6E6B06E7#32,
     0xFED41B76#32, 0x89D32BE0#32, 0x10DA7A5A#32, 0x67DD4ACC#32, 0xF9B9DF6F#32, 0x8EBEEFF9#32, 0x17B7BE43#32, 0x60B08ED5#32] := by
  decide +kernel

theorem test_crc_table_5 : (List.range' 160 32).map (fun k => crcTable (BitVec.ofNat 8 k)) =
    [0xD6D6A3E8#32, 0xA1D1937E#32, 0x38D8C2C4#32, 0x4FDFF252#32, 0xD1BB67F1#32, 0xA6BC5767#32, 0x3FB506DD#32, 0x48B2364B#32,
     0xD80D2BDA#32, 0xAF0A1B4C#32, 0x36034AF6#32, 0x41047A60#32, 0xDF60EFC3#32, 0xA867DF55#32, 0x316E8EEF#32, 0x4669BE79#32,
     0xCB61B38C#32, 0xBC66831A#32, 0x256FD2A0#32, 0x5268E236#32, 0xCC0C7795#32, 0xBB0B4703#32, 0x220216B9#32, 0x5505262F#32,
     0xC5BA3BBE#32, 0xB2BD0B28#32, 0x2BB45A92#32, 0x5CB36A04#32, 0xC2D7FFA7#32, 0xB5D0CF31#32, 0x2CD99E8B#32, 0x5BDEAE1D#32] := by
  decide +kernel

theorem test_crc_table_6 : (List.range' 192 32).map (fun k => crcTable (BitVec.ofNat 8 k)) =
    [0x9B64C2B0#32, 0xEC63F226#32, 0x756AA39C#32, 0x026D930A#32, 0x9C0906A9#32, 0xEB0E363F#32, 0x72076785#32, 0x05005713#32,
     0x95BF4A82#32, 0xE2B87A14#32, 0x7BB12BAE#32, 0x0CB61B38#32, 0x92D28E9B#32, 0xE5D5BE0D#32, 0x7CDCEFB7#32, 0x0BDBDF21#32,
     0x86D3D2D4#32, 0xF1D4E242#32, 0x68DDB3F8#32, 0x1FDA836E#32, 0x81BE16CD#32, 0xF6B9265B#32, 0x6FB077E1#32, 0x18B74777#32,
     0x88085AE6#32, 0xFF0F6A70#32, 0x66063BCA#32, 0x11010B5C#32, 0x8F659EFF#32, 0xF862AE69#32, 0x616BFFD3#32, 0x166CCF45#32] := by
  decide +kernel

theorem test_crc_table_7 : (List.range' 224 32).map (fun k => crcTable (BitVec.ofNat 8 k)) =
    [0xA00AE278#32, 0xD70DD2EE#32, 0x4E048354#32, 0x3903B3C2#32, 0xA7672661#32, 0xD06016F7#32, 0x4969474D#32, 0x3E6E77DB#32,
     0xAED16A4A#32, 0xD9D65ADC#32, 0x40DF0B66#32, 0x37D83BF0#32, 0xA9BCAE53#32, 0xDEBB9EC5#32, 0x47B2CF7F#32, 0x30B5FFE9#32,
     0xBDBDF21C#32, 0xCABAC28A#32, 0x53B39330#32, 0x24B4A3A6#32, 0xBAD03605#32, 0xCDD70693#32, 0x54DE5729#32, 0x23D967BF#32,
     0xB3667A2E#32, 0xC4614AB8#32, 0x5D681B02#32, 0x2A6F2B94#32, 0xB40BBE37#32, 0xC30C8EA1#32, 0x5A05DF1B#32, 0x2D02EF8D#32] := by
  decide +kernel

/-! ### One step of each operation -/

theorem test_sysNop :
    response (execSysNop (State.reset.finish .ioError 5#32 6#32)) = some (.success, 0#32, 0#32) :=
  by decide +kernel

theorem test_sysReset :
    (field State.cfg (execSysReset { State.reset with cfg := 1#32 }) = some 0#32) ∧
    response (execSysReset (sentWith .gver qGver)) = some (.success, 0#32, 0#32) :=
  by decide +kernel

theorem test_sysCfg_masks :
    response (execSysCfg 0xFFFFFFFF#32 State.reset) = some (.success, 1#32, 0#32) :=
  by decide +kernel

theorem test_sysCfg_clears :
    field State.cfg (execSysCfg 0xFFFFFFFE#32 { State.reset with cfg := 1#32 }) = some 0#32 :=
  by decide +kernel

theorem test_sysRdcfg :
    response (execSysRdcfg { State.reset with cfg := 1#32 }) = some (.success, 1#32, 0#32) :=
  by decide +kernel

theorem test_crcReset : response (execCrcReset State.reset) = some (.success, 0xFFFFFFFF#32, 0#32) := by decide +kernel

theorem test_crcUpdate :
    response (execCrcUpdate 0#32 1#32 { loaded [0x31, 0x32, 0x33, 0x34, 0x35, 0x36, 0x37, 0x38, 0x39] with crcR := 0xFFFFFFFF#32 }) = some (.success, 0x7C231048#32, 0#32) :=
  by decide +kernel

theorem test_crcUpdate_range :
    field State.crcR (execCrcUpdate 65535#32 2#32 { State.reset with crcR := 7#32 }) = some 7#32 :=
  by decide +kernel

theorem test_crcFinal :
    response (execCrcFinal { State.reset with crcR := 0x340BC6D9#32 }) = some (.success, 0xCBF43926#32, 0#32) :=
  by decide +kernel

/-- E1 of the source. -/
theorem test_crcCompute_digits :
    response (execCrcCompute 0#32 9#32 (loaded [0x31, 0x32, 0x33, 0x34, 0x35, 0x36, 0x37, 0x38, 0x39])) = some (.success, 0xCBF43926#32, 0#32) :=
  by decide +kernel

/-- E2 of the source, and one byte past the buffer. -/
theorem test_crcCompute_edges :
    response (execCrcCompute 65536#32 0#32 State.reset) = some (.success, 0#32, 0#32) ∧
    response (execCrcCompute 65536#32 1#32 State.reset) = some (.invalidParameter, 0#32, 0#32) :=
  by decide +kernel

theorem test_bufRd : response (execBufRd 3#32 (loaded qGver)) = some (.success, 0x52#32, 0#32) := by decide +kernel

theorem test_bufRd_range :
    response (execBufRd 65536#32 State.reset) = some (.invalidParameter, 0#32, 0#32) :=
  by decide +kernel

theorem test_bufWr_low_byte : buffer 1 (execBufWr 0#32 0x147#32 State.reset) = [0x47] := by decide +kernel

theorem test_bufWr_range :
    response (execBufWr 65536#32 1#32 State.reset) = some (.invalidParameter, 0#32, 0#32) :=
  by decide +kernel

theorem test_frmGet32_unaligned :
    response (execFrmGet32 9#32 (loaded [0, 0, 0, 0, 0, 0, 0, 8, 0xFF, 0xFF, 0xFF, 0xFF, 0])) = some (.success, 0xFFFFFF00#32, 0#32) :=
  by decide +kernel

theorem test_frmGet32_range :
    response (execFrmGet32 65533#32 State.reset) = some (.invalidParameter, 0#32, 0#32) :=
  by decide +kernel

/-- R164 with R12. -/
theorem test_frmPut32 :
    buffer 4 (execFrmPut32 0#32 0x12345678#32 State.reset) = [0x12, 0x34, 0x56, 0x78] :=
  by decide +kernel

theorem test_frmPut32_range :
    response (execFrmPut32 65533#32 1#32 State.reset) = some (.invalidParameter, 0#32, 0#32) :=
  by decide +kernel

theorem test_frmStamp :
    buffer 5 (execFrmStamp 5#32 (loaded [0x41])) = [0x41, 0xD3, 0xD9, 0x9E, 0x8B] :=
  by decide +kernel

theorem test_frmStamp_range :
    response (execFrmStamp 4#32 State.reset) = some (.invalidParameter, 0#32, 0#32) :=
  by decide +kernel

theorem test_frmVerify :
    response (execFrmVerify 20#32 (loaded aGver)) = some (.success, 0x60E7F631#32, 0x60E7F631#32) :=
  by decide +kernel

theorem test_frmVerify_mismatch :
    response (execFrmVerify 20#32 (hostOrder aGver)) = some (.crcError, 0xF0FCA71B#32, 0x31F6E760#32) :=
  by decide +kernel

theorem test_frmH2n :
    buffer 12 (execFrmH2n 12#32 (loaded [0x47, 0x50, 0x52, 0x4D, 4, 0, 0, 0, 5, 0, 0, 0])) =
    [0x47, 0x50, 0x52, 0x4D, 0, 0, 0, 4, 0, 0, 0, 5] :=
  by decide +kernel

theorem test_frmH2n_refuses : refusal (execFrmH2n 10#32 State.reset) = some .conversionRegion := by decide +kernel

theorem test_frmN2h : response (execFrmN2h 20#32 (loaded aGver)) = some (.success, 4#32, 0#32) := by decide +kernel

theorem test_frmN2h_range :
    response (execFrmN2h 65540#32 State.reset) = some (.invalidParameter, 0#32, 0#32) :=
  by decide +kernel

theorem test_cmdGver :
    buffer 12 (execCmdGver State.reset) = qGver ∧
    response (execCmdGver State.reset) = some (.success, 12#32, 0#32) :=
  by decide +kernel

theorem test_cmdGprm :
    buffer 16 (execCmdGprm 5#32 State.reset) = qGprm ∧
    response (execCmdGprm 5#32 State.reset) = some (.success, 16#32, 0#32) :=
  by decide +kernel

theorem test_cmdSprm :
    buffer 20 (execCmdSprm 5#32 100#32 State.reset) = qSprm ∧
    response (execCmdSprm 5#32 100#32 State.reset) = some (.success, 20#32, 0#32) :=
  by decide +kernel

theorem test_cmdGpin :
    buffer 16 (execCmdGpin 5#32 State.reset) = qGpin ∧
    response (execCmdGpin 5#32 State.reset) = some (.success, 16#32, 0#32) :=
  by decide +kernel

theorem test_cmdScan :
    buffer 16 (execCmdScan 1#32 State.reset) = qScan ∧
    response (execCmdScan 1#32 State.reset) = some (.success, 16#32, 0#32) :=
  by decide +kernel

theorem test_cmdGscn :
    buffer 16 (execCmdGscn 0#32 State.reset) = qGscn ∧
    response (execCmdGscn 0#32 State.reset) = some (.success, 16#32, 0#32) :=
  by decide +kernel

theorem test_cmdGsc2 :
    buffer 20 (execCmdGsc2 2#32 2#32 State.reset) = qGsc2 ∧
    response (execCmdGsc2 2#32 2#32 State.reset) = some (.success, 20#32, 0#32) :=
  by decide +kernel

theorem test_cmdTxdone :
    field State.csmSt (execCmdTxdone 12#32 { State.reset with csmCls := some .gver }) = some .sent :=
  by decide +kernel

/-- R209. -/
theorem test_cmdTxdone_write_error :
    response (execCmdTxdone 0xFFFFFFFF#32 { State.reset with csmCls := some .gver }) = some (.writeError, 0xFFFFFFFF#32, 0#32) :=
  by decide +kernel

/-- The first is E10 of the source. -/
theorem test_cmdRxdone_extracts :
    buffer 16 (execCmdRxdone 16#32 (sentWith .gprm aGprm)) =
    [0x47, 0x50, 0x52, 0x4D, 4, 0, 0, 0, 0x2A, 0, 0, 0, 0x07, 0x98, 0x97, 0xFB] ∧
    response (execCmdRxdone 16#32 (sentWith .gprm aGprm)) = some (.success, 0x2A#32, 0#32) ∧
    field State.strLen (execCmdRxdone 20#32 (sentWith .gver aGver)) = some 6#17 ∧
    field (fun s => (s.cv0, s.cv1, s.cv2, s.strOff, s.strLen)) (execCmdRxdone 32#32 (sentWith .gpin aGpin)) =
      some (0x2A#32, 0#32, 0x64#32, 0x14#17, 5#17) :=
  by decide +kernel

/-- R355: no state change out of sequence, and no conversion on `BufferOverflow`. -/
theorem test_cmdRxdone_failures_leave_the_rest :
    field State.crcR (execCmdRxdone 5#32 { State.reset with crcR := 7#32 }) = some 7#32 ∧
    buffer 60 (execCmdRxdone 60#32 (sentWith .gsc2 over1)) = over1 :=
  by decide +kernel

theorem test_cmdRdout :
    response (execCmdRdout 3#32 { State.reset with strOff := 8#17, strLen := 6#17 }) = some (.success, 8#32, 6#32) :=
  by decide +kernel

theorem test_cmdRdout_range :
    response (execCmdRdout 4#32 State.reset) = some (.indexOutOfRange, 0#32, 0#32) :=
  by decide +kernel

theorem test_cmdErrmap :
    response (execCmdErrmap 0x7FFFFFFF#32 State.reset) = some (.success, 0#32, 0#32) :=
  by decide +kernel

/-- A parameter set of R10: the code of each kind is the negative of its status code, as the tests choose. -/
def someParams : Params :=
  { Params.default with
    errCode := ⟨Vector.ofFn (fun k => BitVec.ofInt 32 (-(k.val + 1 : Int))), by decide +kernel⟩ }

/-- R214: a listed code and one no kind has. -/
theorem test_cmdErrmap_negative :
    response (execCmdErrmap 0xFFFFFFF3#32 { State.reset with params := someParams }) = some (.success, 13#32, 0#32) ∧
    response (execCmdErrmap 0x80000000#32 { State.reset with params := someParams }) = some (.success, 11#32, 0#32) :=
  by decide +kernel

theorem test_scnParse :
    response (execScnParse 92#32 (hostOrder scan2)) = some (.success, 2#32, 0xA02#32) :=
  by decide +kernel

theorem test_scnParse_overflow :
    response (execScnParse 80#32 (hostOrder over2)) = some (.bufferOverflow, 0#32, 0#32) :=
  by decide +kernel

/-- The record `SCN.PARSE` fills from `S2`. -/
def record2 : ScanRecord := ((field State.sr (execScnParse 92#32 (hostOrder scan2))).getD ScanRecord.cleared)

theorem test_scnClear :
    field State.sr (execScnClear { State.reset with sr := record2 }) = some ScanRecord.cleared :=
  by decide +kernel

theorem test_scnInfo :
    response (execScnInfo { State.reset with sr := record2 }) = some (.success, 2#32, 0xA02#32) :=
  by decide +kernel

theorem test_scnGetp :
    response (execScnGetp 4#32 { State.reset with sr := record2 }) = some (.success, 2#32, 0#32) :=
  by decide +kernel

theorem test_scnGetp_range :
    response (execScnGetp 10#32 { State.reset with sr := record2 }) = some (.indexOutOfRange, 0#32, 0#32) :=
  by decide +kernel

theorem test_scnGetd :
    response (execScnGetd 1#32 0#32 { State.reset with sr := record2 }) = some (.success, 0xFFFFFFFB#32, 0#32) ∧
    response (execScnGetd 0#32 1#32 { State.reset with sr := record2 }) = some (.success, 0x80000000#32, 0#32) :=
  by decide +kernel

theorem test_scnGetd_range :
    response (execScnGetd 0#32 2#32 { State.reset with sr := record2 }) = some (.indexOutOfRange, 0#32, 0#32) :=
  by decide +kernel

theorem test_scnGetw :
    response (execScnGetw 1#32 1#32 { State.reset with sr := record2 }) = some (.success, 0xFFFFFFFF#32, 0#32) :=
  by decide +kernel

theorem test_scnGetw_range :
    response (execScnGetw 2#32 0#32 { State.reset with sr := record2 }) = some (.indexOutOfRange, 0#32, 0#32) :=
  by decide +kernel

theorem test_rlyOut_rewrites :
    buffer 16 (execRlyOut 20#32 (loaded qGsc2)) = qGscn ∧
    response (execRlyOut 20#32 (loaded qGsc2)) = some (.success, 16#32, 1#32) :=
  by decide +kernel

theorem test_rlyOut_passes :
    response (execRlyOut 20#32 (loaded qGsc2Pass)) = some (.success, 20#32, 0#32) ∧
    response (execRlyOut 12#32 (loaded qGver)) = some (.success, 12#32, 0#32) :=
  by decide +kernel

theorem test_rlyIn_replays :
    buffer 16 (execRlyIn 60#32 (relaying 2#32 2#32 [] scanZ)) = qGscn ∧
    response (execRlyIn 60#32 (relaying 2#32 2#32 [] scanZ)) = some (.success, 16#32, 2#32) :=
  by decide +kernel

theorem test_rlyIn_forwards :
    buffer 60 (execRlyIn 60#32 (relaying 2#32 2#32 [scanZ] scanZ)) = scanZ ∧
    response (execRlyIn 60#32 (relaying 2#32 2#32 [scanZ] scanZ)) = some (.success, 60#32, 1#32) :=
  by decide +kernel

theorem test_average_pulse_widths_false :
    (average [pulse0, pulse1] 2 false).map (fun f => (f.take 72).drop 52) =
    some [0, 0, 0, 2, 0, 0, 0, 11, 0x3B, 0x9A, 0xC9, 0xFC, 0x80, 0, 0, 0, 0, 0, 0, 5] :=
  by decide +kernel

theorem test_average_pulse_widths_true :
    (average [pulse0, pulse1] 2 true).map (fun f => (f.take 72).drop 52) =
    some [0, 0, 0, 2, 0, 0, 0, 11, 0xF7, 0x35, 0x93, 0xFD, 0x80, 0, 0, 0, 0, 0, 0, 0] :=
  by decide +kernel

/-- R292. -/
theorem test_rlyReset :
    field (fun s => (s.rly.active, s.rly.cnt, s.rly.n, s.rly.m, s.rly.origReq.len))
      (execRlyReset (relaying 2#32 2#32 [scanZ] [])) = some (false, 0, 0#32, 0#32, 0#17) :=
  by decide +kernel

theorem test_tagGver : buffer 12 (execTagGver 0#32 [] 0x1B39CF64#32 State.reset) = qGver := by decide +kernel

theorem test_tagGprm :
    buffer 16 (execTagGprm 4#32 [0x00, 0x00, 0x00, 0x05] 0x5046A55E#32 State.reset) = qGprm :=
  by decide +kernel

theorem test_tagSprm :
    buffer 20 (execTagSprm 8#32 [0x00, 0x00, 0x00, 0x05, 0x00, 0x00, 0x00, 0x64] 0x8690A53D#32 State.reset) = qSprm :=
  by decide +kernel

theorem test_tagGpin :
    buffer 16 (execTagGpin 4#32 [0x00, 0x00, 0x00, 0x05] 0xB685E384#32 State.reset) = qGpin :=
  by decide +kernel

theorem test_tagScan :
    buffer 16 (execTagScan 4#32 [0x00, 0x00, 0x00, 0x01] 0x9A351320#32 State.reset) = qScan :=
  by decide +kernel

theorem test_tagGscn :
    buffer 16 (execTagGscn 4#32 [0x00, 0x00, 0x00, 0x00] 0x482FE1C3#32 State.reset) = qGscn :=
  by decide +kernel

theorem test_tagGsc2 :
    buffer 20 (execTagGsc2 8#32 [0x00, 0x00, 0x00, 0x02, 0x00, 0x00, 0x00, 0x02] 0xD533D18B#32 State.reset) = qGsc2 :=
  by decide +kernel

theorem test_tagErr :
    buffer 16 (execTagErr 4#32 [0xFF, 0xFF, 0xFF, 0xF9] 0x8C7E1709#32 State.reset) = aErr :=
  by decide +kernel

/-- R111. -/
theorem test_step_reserved_code :
    response (step { sentWith .gver [] with port := [.op 0x00000000000000000000000005#104] }) = some (.unknownCommand, 0#32, 0#32) :=
  by decide +kernel

theorem test_step_fetches :
    response (step (State.reset.withFetchWord 8 0x20)) = some (.success, 12#32, 0#32) ∧
    buffer 12 (step (State.reset.withFetchWord 32 0x47564552)) = [0x47, 0x56, 0x45, 0x52, 0, 0, 0, 0, 0, 0, 0, 0] :=
  by decide +kernel

/-! ### Witnesses: concrete states and operands that meet the hypotheses of the statements -/

/-- A response is that of a next state. -/
theorem next_of_response {r : Result} {x : Status × Word × Word} (h : response r = some x) :
    ∃ t, r = .next t ∧ t.status = x.1 := by
  cases r with
  | next s => exact ⟨s, rfl, congrArg Prod.fst (Option.some.inj h)⟩
  | fault f => exact nomatch h
  | refused f => exact nomatch h

theorem witness_CrcUpdateFeedsTheRange :
    (65535#32).toNat + (1#32).toNat ≤ 65536 ∧ 65536 < (65535#32).toNat + (2#32).toNat := by decide

theorem witness_CrcComputeReturnsTheBitSerialCrc :
    (65536#32).toNat + (0#32).toNat ≤ 65536 ∧ 65536 < (65536#32).toNat + (1#32).toNat := by decide

theorem witness_OneInvertedBitChangesTheCrc : 8 < ([0, 0, 0, 0, 0, 0, 0, 0, 0] : List Byte).length ∧ 7 < 8 := by decide

theorem witness_StreamedCrcIsTheCrcOfTheUnion : (65530#32).toNat + (5#32).toNat + (1#32).toNat ≤ 65536 := by decide

theorem witness_BufferReadsReturnTheBytes :
    (65535#32).toNat < 65536 ∧ (65532#32).toNat + 4 ≤ 65536 ∧ 65536 ≤ (65536#32).toNat ∧ 65536 < (65533#32).toNat + 4 := by
  decide

theorem witness_BufferWritesWriteOnlyTheirBytes :
    (65535#32).toNat < 65536 ∧ (65532#32).toNat + 4 ≤ 65536 ∧ 65536 ≤ (65536#32).toNat ∧ 65536 < (65533#32).toNat + 4 := by
  decide

theorem witness_StampWritesTheTrailer :
    (4 < (5#32).toNat ∧ (65536#32).toNat ≤ 65536) ∧ (4 < (65536#32).toNat ∧ (5#32).toNat ≤ 65536) ∧
      (4#32).toNat ≤ 4 ∧ 65536 < (65537#32).toNat := by decide

theorem witness_VerifyComparesTheTrailer :
    (4 < (5#32).toNat ∧ (5#32).toNat ≤ 65536) ∧ (4#32).toNat ≤ 4 ∧ 65536 < (65537#32).toNat := by decide

theorem witness_VerifyAfterStampSucceeds : 4 < (5#32).toNat ∧ (5#32).toNat ≤ 65536 := by decide

theorem witness_OneInvertedBitFailsVerify :
    (∃ t, exec (.frmVerify 12#32) (loaded qGver) = .next t ∧ t.status = .success) ∧ 11 < (12#32).toNat ∧ 7 < 8 :=
  ⟨next_of_response (x := (.success, 0x1B39CF64#32, 0x1B39CF64#32)) (by decide +kernel), by decide, by decide⟩

theorem witness_ConversionsSwapEveryWord :
    (4 ≤ (4#32).toNat ∧ (4#32).toNat ≤ 65536 ∧ ((4#32).toNat - 4) % 4 = 0) ∧
      (4 ≤ (65536#32).toNat ∧ (65536#32).toNat ≤ 65536 ∧ ((65536#32).toNat - 4) % 4 = 0) ∧
      ((3#32).toNat ≤ 65536 ∧ ((3#32).toNat < 4 ∨ ((3#32).toNat - 4) % 4 ≠ 0)) ∧
      ((65535#32).toNat ≤ 65536 ∧ ((65535#32).toNat < 4 ∨ ((65535#32).toNat - 4) % 4 ≠ 0)) ∧
      65536 < (65537#32).toNat := by decide

theorem witness_ConversionTwiceIsTheIdentity :
    4 ≤ (8#32).toNat ∧ (8#32).toNat ≤ 65536 ∧ ((8#32).toNat - 4) % 4 = 0 := by decide

theorem witness_BuildsWriteTheRequestFrame (a b : Word) :
    ∀ q ∈ [(Instr.cmdGver, CmdClass.gver, ([] : List Word)), (.cmdGsc2 a b, .gsc2, [a, b])],
      q ∈ [(Instr.cmdGver, CmdClass.gver, []), (.cmdGprm a, .gprm, [a]), (.cmdSprm a b, .sprm, [a, b]),
        (.cmdGpin a, .gpin, [a]), (.cmdScan a, .scan, [a]), (.cmdGscn a, .gscn, [a]), (.cmdGsc2 a b, .gsc2, [a, b])] := by
  simp

theorem witness_BuiltRequestsVerify (a b : Word) :
    Instr.cmdGsc2 a b ∈
      [Instr.cmdGver, .cmdGprm a, .cmdSprm a b, .cmdGpin a, .cmdScan a, .cmdGscn a, .cmdGsc2 a b] := by simp

theorem witness_TxdoneReportsTheWrite :
    (State.reset.csmCls = none ∨ State.reset.csmSt = .sent) ∧
      (({ State.reset with csmCls := some .gver } : State).csmCls ≠ none ∧ State.reset.csmSt = .idle) ∧
      (0xFFFFFFFF#32).toInt < 0 ∧ 0 ≤ (0#32).toInt := by decide

theorem witness_RxdoneReportsTransportFailures :
    State.reset.csmSt = .idle ∧ (sentWith .gver []).csmSt = .sent ∧
      ((0xFFFFFFFF#32).toInt < 0 ∨ (0xFFFFFFFF#32).toNat ≤ 4) ∧ ((0#32).toInt < 0 ∨ (0#32).toNat ≤ 4) ∧
      ((4#32).toInt < 0 ∨ (4#32).toNat ≤ 4) ∧ (0 ≤ (65537#32).toInt ∧ 65536 < (65537#32).toNat) ∧
      (0 ≤ (0x7FFFFFFF#32).toInt ∧ 65536 < (0x7FFFFFFF#32).toNat) := by decide

theorem witness_RxdoneCrcMismatchIsAHardFailure :
    (sentWith .gprm [0, 0, 0, 0, 0]).csmSt = .sent ∧ 4 < (5#32).toNat ∧ (5#32).toNat ≤ 65536 ∧
      crc32Msb ((sentWith .gprm [0, 0, 0, 0, 0]).fb.bytes 0 ((5#32).toNat - 4)) ≠
        (sentWith .gprm [0, 0, 0, 0, 0]).fb.beWord ((5#32).toNat - 4) := by decide +kernel

/-- An intact frame in a cycle that is Sent, with the first four bytes as given. -/
abbrev Received (s : State) (r : Word) (err : Bool) : Prop :=
  s.csmSt = .sent ∧ r.toNat ≤ 65536 ∧ crc32Msb (s.fb.bytes 0 (r.toNat - 4)) = s.fb.beWord (r.toNat - 4) ∧
    (s.fb.bytes 0 4 = tagBytes .err ↔ err = true)

theorem witness_RxdoneReturnsTheErrorFrameKind :
    (Received (sentWith .gprm aErr) 16#32 true ∧ 16 ≤ (16#32).toNat) ∧
      (Received (sentWith .gprm aErrShort) 12#32 true ∧ 4 < (12#32).toNat ∧ (12#32).toNat < 16) := by decide +kernel

/-- An intact response of 11 bytes, one of 12 and one of 15, which no class but those of a string can hold. -/
def eleven : List Byte := stamped [0x47, 0x56, 0x45, 0x52, 0, 0, 0]

theorem witness_RxdoneRefusesShortVersion :
    Received (sentWith .gver eleven) 11#32 false ∧ (sentWith .gver eleven).csmCls = some .gver ∧
      4 < (11#32).toNat ∧ (11#32).toNat < 12 := by decide +kernel

theorem witness_RxdoneRefusesOddOrShortValue :
    (Received (sentWith .gprm qGver) 12#32 false ∧ 4 < (12#32).toNat ∧ (12#32).toNat < 16 + 4 * 0 ∧
      (sentWith .gprm qGver).params.rspFirst = 0) ∧
    (Received (sentWith .sprm eleven) 11#32 false ∧ ((11#32).toNat - 4) % 4 ≠ 0) := by decide +kernel

theorem witness_RxdoneRefusesShortInfo :
    Received (sentWith .gpin aGver) 20#32 false ∧ (sentWith .gpin aGver).csmCls = some .gpin ∧
      20 = 8 + 4 * ((sentWith .gpin aGver).params.rspFirst + 3) ∧ (20#32).toNat < 20 + 4 := by decide +kernel

theorem witness_RxdoneRefusesOddOrShortScan :
    (Received (sentWith .gscn eleven) 11#32 false ∧ (sentWith .gscn eleven).csmCls = some .gscn ∧
      ((11#32).toNat - 4) % 4 ≠ 0) ∧
    (Received (sentWith .scan (stamped [0x53, 0x43, 0x41, 0x4E])) 8#32 false ∧ (8#32).toNat < 12 ∧ 4 < (8#32).toNat) := by
  decide +kernel

theorem witness_RxdoneExtractsTheVersionString :
    (Received (sentWith .gver qGver) 12#32 false ∧ 12 ≤ (12#32).toNat) ∧ (sentWith .gver qGver).csmCls = some .gver ∧
      (Received (sentWith .gver aGver) 20#32 false ∧ 12 ≤ (20#32).toNat) := by decide +kernel

theorem witness_RxdoneExtractsTheParameterValue :
    Received (sentWith .gprm aGprm) 16#32 false ∧ (sentWith .gprm aGprm).csmCls = some .gprm ∧
      Received (sentWith .sprm aGprm) 16#32 false ∧ (sentWith .sprm aGprm).csmCls = some .sprm ∧
      ((16#32).toNat - 4) % 4 = 0 ∧ 16 + 4 * (sentWith .gprm aGprm).params.rspFirst ≤ (16#32).toNat := by decide +kernel

/-- A parameter-info response with an empty string, the shortest. -/
def shortInfo : List Byte := requestFrame .gpin [1#32, 2#32, 3#32]

theorem witness_RxdoneExtractsTheParameterInfo :
    Received (sentWith .gpin shortInfo) 24#32 false ∧ (sentWith .gpin shortInfo).csmCls = some .gpin ∧
      20 = 8 + 4 * ((sentWith .gpin shortInfo).params.rspFirst + 3) ∧ 20 + 4 ≤ (24#32).toNat ∧
      Received (sentWith .gpin aGpin) 32#32 false := by decide +kernel

/-- The state after `FRM.N2H` of a frame's length. -/
theorem converted_next (s : State) (r : Word) (h1 : 4 ≤ r.toNat) (h2 : r.toNat ≤ 65536) (h3 : (r.toNat - 4) % 4 = 0) :
    exec (.frmN2h r) s = .next ((s.swapRegion r.toNat).succeed (BitVec.ofNat 32 ((r.toNat - 4) / 4)) 0#32) :=
  convertRegion_next s r h1 h2 h3

/-- The kind of a parse. -/
def parseKind : ParseResult → Nat
  | .parsed _ => 0
  | .overflow => 1
  | .undefined => 2

theorem parsed_of_kind {r : ParseResult} (h : parseKind r = 0) : ∃ sr, r = .parsed sr := by
  cases r with
  | parsed sr => exact ⟨sr, rfl⟩
  | overflow => exact nomatch h
  | undefined => exact nomatch h

theorem overflow_of_kind {r : ParseResult} (h : parseKind r = 1) : r = .overflow := by
  cases r with
  | parsed sr => exact nomatch h
  | overflow => rfl
  | undefined => exact nomatch h

theorem undefined_of_kind {r : ParseResult} (h : parseKind r = 2) : r = .undefined := by
  cases r with
  | parsed sr => exact nomatch h
  | overflow => exact nomatch h
  | undefined => rfl

/-- A response of 12 bytes to a scan request has no parameter count. -/
theorem witness_RxdoneRefusesTheScanPayload :
    Received (sentWith .gscn qGver) 12#32 false ∧ (sentWith .gscn qGver).csmCls = some .gscn ∧ 12 ≤ (12#32).toNat ∧
      ∃ m, exec (.frmN2h 12#32) (sentWith .gscn qGver) = .next m ∧ parseScan m.fb (12#32).toNat = .undefined := by
  refine ⟨by decide +kernel, by decide, by decide, _, converted_next _ _ (by decide) (by decide) (by decide), ?_⟩
  exact undefined_of_kind (r := parseScan ((sentWith .gscn qGver).swapRegion 12).fb 12) (by decide +kernel)

theorem witness_RxdoneExtractsTheScan :
    (Received (sentWith .scan aScan) 12#32 false ∧ ((12#32).toNat - 4) % 4 = 0 ∧ 12 ≤ (12#32).toNat ∧
      (sentWith .scan aScan).csmCls = some .scan) ∧
    (Received (sentWith .gscn scan5) 20#32 false ∧ ((20#32).toNat - 4) % 4 = 0 ∧
      (sentWith .gscn scan5).csmCls = some .gscn ∧
      ∃ m sr, exec (.frmN2h 20#32) (sentWith .gscn scan5) = .next m ∧ parseScan m.fb (20#32).toNat = .parsed sr) := by
  refine ⟨by decide +kernel, by decide +kernel, by decide, by decide, ?_⟩
  obtain ⟨sr, h⟩ := parsed_of_kind
    (r := parseScan ((sentWith .gscn scan5).swapRegion 20).fb 20) (by decide +kernel)
  exact ⟨_, sr, converted_next _ _ (by decide) (by decide) (by decide), h⟩

theorem witness_RxdoneScanOverflowClearsTheRecord :
    Received (sentWith .gsc2 over1) 60#32 false ∧ ((60#32).toNat - 4) % 4 = 0 ∧ 12 ≤ (60#32).toNat ∧
      (sentWith .gsc2 over1).csmCls = some .gsc2 ∧
      ∃ m, exec (.frmN2h 60#32) (sentWith .gsc2 over1) = .next m ∧ parseScan m.fb (60#32).toNat = .overflow := by
  refine ⟨by decide +kernel, by decide, by decide, by decide, _,
    converted_next _ _ (by decide) (by decide) (by decide), ?_⟩
  exact overflow_of_kind (r := parseScan ((sentWith .gsc2 over1).swapRegion 60).fb 60) (by decide +kernel)

theorem witness_ErrorCodeMapping :
    0 ≤ (0#32).toInt ∧
      (Status.systemNotReady ≠ .success ∧ 0xFFFFFFFF#32 = someParams.errCode.val[Status.systemNotReady.code.toNat - 1]) ∧
      (Status.ioError ≠ .success ∧ 0xFFFFFFEB#32 = someParams.errCode.val[Status.ioError.code.toNat - 1]) ∧
      ((0xFFFFFFEA#32).toInt < 0 ∧ ∀ k (h : k < 21), 0xFFFFFFEA#32 ≠ someParams.errCode.val[k]) :=
  ⟨by decide +kernel, by decide +kernel, by decide +kernel, by decide +kernel⟩

theorem witness_OutputAndMappingGetters : 3 < (4#32).toNat := by decide

/-- No parameters, one echo, no points: the smallest payload. -/
theorem witness_ParseFillsTheWholeRecord_smallest :
    ∃ par : Nat → Word, 16 ≤ (20#32).toNat ∧ (20#32).toNat ≤ 65536 ∧ (hostOrder scan5).fb.leWord 8 = BitVec.ofNat 32 0 ∧
      (∀ k, par k = if k < min 0 10 then (hostOrder scan5).fb.leWord (12 + 4 * k) else 0#32) ∧
      (par 4 = 0#32 ∧ 1 = 1 ∨ par 4 = BitVec.ofNat 32 1 ∧ 1 ≤ 1 ∧ 1 ≤ 4) ∧
      (hostOrder scan5).fb.leWord (12 + 4 * 0) = BitVec.ofNat 32 0 ∧
      0 = (if par 8 = 4#32 then 4 else if par 8 = 8#32 ∨ par 8 = 7#32 then 8 else 0) ∧
      16 + 4 * 0 + 0 * 1 * 0 ≤ (20#32).toNat - 4 :=
  ⟨fun k => if k < min 0 10 then (hostOrder scan5).fb.leWord (12 + 4 * k) else 0#32, by decide, by decide,
    by decide +kernel, fun _ => rfl, by decide +kernel, by decide +kernel, by decide +kernel, by decide⟩

/-- Two echoes and pulse widths. -/
theorem witness_ParseFillsTheWholeRecord_pulses :
    ∃ par : Nat → Word, (hostOrder scan2).fb.leWord 8 = BitVec.ofNat 32 10 ∧
      (∀ k, par k = if k < min 10 10 then (hostOrder scan2).fb.leWord (12 + 4 * k) else 0#32) ∧
      (par 4 = 0#32 ∧ 2 = 1 ∨ par 4 = BitVec.ofNat 32 2 ∧ 1 ≤ 2 ∧ 2 ≤ 4) ∧
      (hostOrder scan2).fb.leWord (12 + 4 * 10) = BitVec.ofNat 32 2 ∧
      8 = (if par 8 = 4#32 then 4 else if par 8 = 8#32 ∨ par 8 = 7#32 then 8 else 0) ∧
      16 + 4 * 10 + 2 * 2 * 8 ≤ (92#32).toNat - 4 :=
  ⟨fun k => if k < min 10 10 then (hostOrder scan2).fb.leWord (12 + 4 * k) else 0#32, by decide +kernel,
    fun _ => rfl, by decide +kernel, by decide +kernel, by decide +kernel, by decide⟩

theorem witness_ParseOverflowClearsTheRecord :
    ((hostOrder over2).fb.leWord 8 = BitVec.ofNat 32 10 ∧ 12 + 4 * 10 + 4 ≤ (80#32).toNat - 4 ∧
      4 < ((hostOrder over2).fb.leWord 28).toInt) ∧
    ((hostOrder over1).fb.leWord 8 = BitVec.ofNat 32 10 ∧ 12 + 4 * 10 + 4 ≤ (60#32).toNat - 4 ∧
      4000 < ((hostOrder over1).fb.leWord (12 + 4 * 10)).toInt) := by decide +kernel

theorem witness_ParseRefusesUndefinedPayloads :
    65536 < (65537#32).toNat ∧ (15#32).toNat < 16 ∧
      ((loaded [0, 0, 0, 0, 0, 0, 0, 0, 0xFF, 0xFF, 0xFF, 0xFF]).fb.leWord 8).toInt < 0 ∧
      (19#32).toNat < 20 + 4 * ((loaded [0, 0, 0, 0, 0, 0, 0, 0, 0, 0, 0, 0]).fb.leWord 8).toNat ∧
      ((loaded [0, 0, 0, 0, 0, 0, 0, 0, 0, 0, 0, 0, 0xFF, 0xFF, 0xFF, 0xFF]).fb.leWord 8 = BitVec.ofNat 32 0 ∧
        20 + 4 * 0 ≤ (20#32).toNat ∧
        ((loaded [0, 0, 0, 0, 0, 0, 0, 0, 0, 0, 0, 0, 0xFF, 0xFF, 0xFF, 0xFF]).fb.leWord (12 + 4 * 0)).toInt < 0) := by
  decide +kernel

/-- Five parameters, the fifth (the echo count) negative, no points. -/
def negativeEchoes : List Byte :=
  (List.replicate 8 0) ++ le32 5#32 ++ List.replicate 16 0 ++ le32 0xFFFFFFFF#32 ++ le32 0#32 ++ List.replicate 4 0

theorem witness_ParseRefusesUndefinedPayloads_echoes :
    (loaded negativeEchoes).fb.leWord 8 = BitVec.ofNat 32 5 ∧ 20 + 4 * 5 ≤ (40#32).toNat ∧
      ((loaded negativeEchoes).fb.leWord 28).toInt < 0 ∧
      ((loaded negativeEchoes).fb.leWord (12 + 4 * 5)).toInt ≤ 4000 := by decide +kernel

/-- `S2` with its last byte missing. -/
theorem witness_ParseRefusesUndefinedPayloads_samples :
    ∃ par : Nat → Word, (hostOrder scan2).fb.leWord 8 = BitVec.ofNat 32 10 ∧ 20 + 4 * 10 ≤ (91#32).toNat ∧
      (∀ k, par k = if k < min 10 10 then (hostOrder scan2).fb.leWord (12 + 4 * k) else 0#32) ∧
      (par 4 = 0#32 ∧ 2 = 1 ∨ par 4 = BitVec.ofNat 32 2 ∧ 1 ≤ 2 ∧ 2 ≤ 4) ∧
      (hostOrder scan2).fb.leWord (12 + 4 * 10) = BitVec.ofNat 32 2 ∧
      8 = (if par 8 = 4#32 then 4 else if par 8 = 8#32 ∨ par 8 = 7#32 then 8 else 0) ∧
      (91#32).toNat < 20 + 4 * 10 + 2 * 2 * 8 :=
  ⟨fun k => if k < min 10 10 then (hostOrder scan2).fb.leWord (12 + 4 * k) else 0#32, by decide +kernel, by decide,
    fun _ => rfl, by decide +kernel, by decide +kernel, by decide +kernel, by decide⟩

theorem witness_ClearAndInfoResults :
    ({ ScanRecord.cleared with npar := 10, nech := 4 } : ScanRecord).npar ≤ 10 ∧
      ({ ScanRecord.cleared with npar := 10, nech := 4 } : ScanRecord).nech ≤ 4 := by decide

theorem witness_RecordGettersResults :
    (9#32).toNat < 10 ∧ 10 ≤ (10#32).toNat ∧ ((1#32).toNat < record2.npts ∧ (1#32).toNat < record2.nech) ∧
      (record2.npts ≤ (2#32).toNat ∨ record2.nech ≤ (0#32).toNat) ∧
      (record2.npts ≤ (0#32).toNat ∨ record2.nech ≤ (2#32).toNat) := by decide +kernel

theorem witness_OutboundPassesOtherFrames :
    ((3#32).toNat < 4 ∧ 65536 < (65537#32).toNat) ∧
      (4 ≤ (4#32).toNat ∧ (65536#32).toNat ≤ 65536 ∧ (loaded qGver).fb.bytes 0 4 ≠ tagBytes .gsc2) ∧
      (20 ≤ (20#32).toNat ∧ (loaded qGsc2Pass).fb.bytes 0 4 = tagBytes .gsc2 ∧
        ((loaded qGsc2Pass).fb.beWord 12).toInt ≤ 1) := by decide +kernel

/-- An averaging request for ten scans, the most; `RLY.OUT` does not check its CRC (R284). -/
def tenScans : List Byte := tagBytes .gsc2 ++ be32 8#32 ++ be32 10#32 ++ be32 2#32 ++ be32 0#32

/-- One for eleven. -/
def elevenScans : List Byte := tagBytes .gsc2 ++ be32 8#32 ++ be32 11#32 ++ be32 2#32 ++ be32 0#32

theorem witness_OutboundRewritesTheAveragingRequest :
    (20 ≤ (20#32).toNat ∧ (20#32).toNat ≤ 65536 ∧ (loaded qGsc2).fb.bytes 0 4 = tagBytes .gsc2 ∧
      2 ≤ ((loaded qGsc2).fb.beWord 8).toInt ∧ ((loaded qGsc2).fb.beWord 8).toInt ≤ 10 ∧
      2 ≤ ((loaded qGsc2).fb.beWord 12).toInt) ∧
    ((loaded tenScans).fb.bytes 0 4 = tagBytes .gsc2 ∧ 2 ≤ ((loaded tenScans).fb.beWord 8).toInt ∧
      ((loaded tenScans).fb.beWord 8).toInt ≤ 10 ∧ 2 ≤ ((loaded tenScans).fb.beWord 12).toInt) := by decide +kernel

theorem witness_OutboundRefusesShortOrLargeRequests :
    (4 ≤ (19#32).toNat ∧ (19#32).toNat < 20 ∧ (loaded qGsc2).fb.bytes 0 4 = tagBytes .gsc2) ∧
      (20 ≤ (20#32).toNat ∧ (loaded elevenScans).fb.bytes 0 4 = tagBytes .gsc2 ∧
        10 < ((loaded elevenScans).fb.beWord 8).toInt ∧ 2 ≤ ((loaded elevenScans).fb.beWord 12).toInt) := by
  decide +kernel

theorem witness_InboundPassesOtherFrames :
    ((3#32).toNat < 4 ∧ 65536 < (65537#32).toNat) ∧ (4 ≤ (4#32).toNat ∧ (65536#32).toNat ≤ 65536) ∧
      State.reset.rly.active = false ∧
      ((relaying 2#32 2#32 [] qGver).rly.active = true ∧
        (relaying 2#32 2#32 [] qGver).fb.bytes 0 4 ≠ tagBytes .gscn) := by decide +kernel

theorem witness_InboundCrcFailureReplays :
    (relaying 2#32 2#32 [] qGscn).rly.active = true ∧ (relaying 2#32 2#32 [] qGscn).fb.bytes 0 4 = tagBytes .gscn ∧
      ((4#32).toNat = 4 ∨ crc32Msb ((relaying 2#32 2#32 [] qGscn).fb.bytes 0 ((4#32).toNat - 4)) ≠
        (relaying 2#32 2#32 [] qGscn).fb.beWord ((4#32).toNat - 4)) ∧
      crc32Msb ((relaying 2#32 2#32 [] qGscn).fb.bytes 0 ((15#32).toNat - 4)) ≠
        (relaying 2#32 2#32 [] qGscn).fb.beWord ((15#32).toNat - 4) := by decide +kernel

/-- An intact scan response in an active cycle whose counts are in R33's range. -/
abbrev Collecting (s : State) (total : Word) : Prop :=
  4 < total.toNat ∧ total.toNat ≤ 65536 ∧ s.rly.active = true ∧ s.fb.bytes 0 4 = tagBytes .gscn ∧
    crc32Msb (s.fb.bytes 0 (total.toNat - 4)) = s.fb.beWord (total.toNat - 4) ∧
    2 ≤ s.rly.n.toInt ∧ s.rly.n.toInt ≤ 10 ∧ 2 ≤ s.rly.m.toInt

/-- An averaging cycle of ten scans that holds eight. -/
def lateCycle : State :=
  { relaying 10#32 2#32 [] qGscn with rly := { (relaying 10#32 2#32 [] qGscn).rly with cnt := 8 } }

theorem witness_InboundStoresAndReplays :
    (Collecting (relaying 2#32 2#32 [] qGscn) 16#32 ∧ ((relaying 2#32 2#32 [] qGscn).rly.cnt : Int) + 1 <
      (relaying 2#32 2#32 [] qGscn).rly.n.toInt ∧ (relaying 2#32 2#32 [] qGscn).rly.cnt < 10) ∧
    (Collecting lateCycle 16#32 ∧ (lateCycle.rly.cnt : Int) + 1 < lateCycle.rly.n.toInt ∧ lateCycle.rly.cnt < 10) := by
  decide +kernel

theorem witness_InboundForwardsTheAveragedFrame :
    Collecting (relaying 2#32 2#32 [scanZ] scanZ) 60#32 ∧
      ((relaying 2#32 2#32 [scanZ] scanZ).rly.cnt : Int) + 1 = (relaying 2#32 2#32 [scanZ] scanZ).rly.n.toInt ∧
      ∃ f, average (((relaying 2#32 2#32 [scanZ] scanZ).rly.slot.toList.take
          (relaying 2#32 2#32 [scanZ] scanZ).rly.cnt).map (fun st => st.bytes.bytes 0 st.len.toNat) ++
            [(relaying 2#32 2#32 [scanZ] scanZ).fb.bytes 0 (60#32).toNat])
        (relaying 2#32 2#32 [scanZ] scanZ).rly.m.toNat ((relaying 2#32 2#32 [scanZ] scanZ).cfg.getLsbD 0) = some f := by
  refine ⟨by decide +kernel, by decide +kernel, ?_⟩
  exact Option.isSome_iff_exists.1 (by decide +kernel)

/-- The set completed by a scan response without a payload, which has no view. -/
theorem witness_InboundRefusesUndefinedAverages :
    Collecting (relaying 2#32 2#32 [scanZ] (requestFrame .gscn [])) 12#32 ∧
      ((relaying 2#32 2#32 [scanZ] (requestFrame .gscn [])).rly.cnt : Int) + 1 =
        (relaying 2#32 2#32 [scanZ] (requestFrame .gscn [])).rly.n.toInt ∧
      average (((relaying 2#32 2#32 [scanZ] (requestFrame .gscn [])).rly.slot.toList.take
          (relaying 2#32 2#32 [scanZ] (requestFrame .gscn [])).rly.cnt).map (fun st => st.bytes.bytes 0 st.len.toNat) ++
            [(relaying 2#32 2#32 [scanZ] (requestFrame .gscn [])).fb.bytes 0 (12#32).toNat])
        (relaying 2#32 2#32 [scanZ] (requestFrame .gscn [])).rly.m.toNat
        ((relaying 2#32 2#32 [scanZ] (requestFrame .gscn [])).cfg.getLsbD 0) = none := by
  refine ⟨by decide +kernel, by decide +kernel, ?_⟩
  exact Option.isNone_iff_eq_none.1 (by decide +kernel)

theorem witness_AveragedDistanceOfValidSamples :
    [3#32] = [0x80000000#32, 3#32, 0x7FFFFFFF#32].filter (fun w => w != 0x80000000#32 && w != 0x7FFFFFFF#32) ∧
      [3#32] ≠ [] ∧ 0 < 1 := by decide

theorem witness_AveragedDistanceLiesBetweenSamples :
    (∃ w ∈ [0x80000000#32, 0x7FFFFFFE#32, 0x80000001#32], w ≠ 0x80000000#32 ∧ w ≠ 0x7FFFFFFF#32) ∧
      (∀ w ∈ [0x80000000#32, 0x7FFFFFFF#32], w = 0x80000000#32 ∨ w = 0x7FFFFFFF#32) :=
  ⟨⟨0x7FFFFFFE#32, by simp⟩, by simp⟩

theorem witness_AverageIsTheTwoStages :
    1 ≤ 1 ∧ ∃ v rest, [pulse0, pulse1].mapM scanView = some (v :: rest) ∧
      ∀ w ∈ rest, w.nP = v.nP ∧ w.nE = v.nE ∧ w.dc = v.dc ∧ w.nPts = v.nPts :=
  ⟨by decide, { frame := pulse0, nP := 10, nE := 1, nPts := 3, dc := 8#32 },
    [{ frame := pulse1, nP := 10, nE := 1, nPts := 3, dc := 8#32 }], by decide +kernel, by simp⟩

theorem witness_AverageIsDefinedOnlyOnCompatibleFrames : [pulse0] ≠ [] ∧ [pulse0, scanZ] ≠ [] :=
  ⟨List.cons_ne_nil _ _, List.cons_ne_nil _ _⟩

/-- A frame with a view, both ways of the equivalence. -/
theorem witness_scanView :
    scanView pulse0 = some { frame := pulse0, nP := 10, nE := 1, nPts := 3, dc := 8#32 } ∧ 8 + 4 ≤ pulse0.length := by
  decide +kernel

/-- The largest payload of a frame fits (R62). -/
theorem largest_payload : ∃ l : List Byte, l.length = 65524 ∧ frameFits l = true :=
  ⟨List.replicate 65524 0#8, List.length_replicate, decide_eq_true (by rw [List.length_replicate]; decide)⟩

theorem witness_FramesAreDeliveredByTag :
    ∃ l : List Byte, l.length = 65524 ∧ WellFormed (.tagGver 0#32 l 0#32) ∧
      (Instr.tagGver 0#32 l 0#32, [0x47#8, 0x56#8, 0x45#8, 0x52#8]) ∈
        [(Instr.tagGver 0#32 l 0#32, [0x47#8, 0x56#8, 0x45#8, 0x52#8])] :=
  have ⟨l, n, h⟩ := largest_payload
  ⟨l, n, h, List.mem_cons_self ..⟩

/-- Byte strings that are no frame: an empty one, a short one, one of an unknown tag, one past the buffer. -/
theorem witness_UnknownByteStringsAreDelivered :
    ([] : List Byte).length < 12 ∧ eleven.length < 12 ∧ [0x45, 0x52, 0x52, 0x20] ∉
      [[0x47#8, 0x56#8, 0x45#8, 0x52#8], [0x47#8, 0x50#8, 0x52#8, 0x4D#8], [0x53#8, 0x50#8, 0x52#8, 0x4D#8],
        [0x47#8, 0x50#8, 0x49#8, 0x4E#8], [0x53#8, 0x43#8, 0x41#8, 0x4E#8], [0x47#8, 0x53#8, 0x43#8, 0x4E#8],
        [0x47#8, 0x53#8, 0x43#8, 0x32#8], [0x45#8, 0x52#8, 0x52#8, 0x00#8]] ∧
      ∃ l : List Byte, 65536 < l.length ∧
        ({ State.reset with port := [.frame l, .hwReset] } : State).port = .frame l :: [.hwReset] :=
  ⟨by decide, by decide, by decide, List.replicate 65537 0#8, by rw [List.length_replicate]; decide, rfl⟩

theorem witness_DecodeEncodeGivesTheInstruction :
    (∃ l : List Byte, l.length = 65524 ∧ WellFormed (.tagErr 0#32 l 0#32)) ∧ WellFormed .sysNop :=
  ⟨largest_payload, rfl⟩

/-- Every code is that of a word with every operand field in use. -/
theorem witness_OperationWordsDecodeByCode :
    [0xFFFFFFFF000000020000000100#104, 0xFFFFFFFF000000020000000101#104, 0xFFFFFFFF000000020000000102#104,
      0xFFFFFFFF000000020000000103#104, 0xFFFFFFFF000000020000000104#104, 0xFFFFFFFF000000020000000108#104,
      0xFFFFFFFF000000020000000109#104, 0xFFFFFFFF00000002000000010A#104, 0xFFFFFFFF00000002000000010B#104,
      0xFFFFFFFF000000020000000110#104, 0xFFFFFFFF000000020000000111#104, 0xFFFFFFFF000000020000000112#104,
      0xFFFFFFFF000000020000000113#104, 0xFFFFFFFF000000020000000120#104, 0xFFFFFFFF000000020000000121#104,
      0xFFFFFFFF000000020000000122#104, 0xFFFFFFFF000000020000000123#104, 0xFFFFFFFF000000020000000124#104,
      0xFFFFFFFF000000020000000125#104, 0xFFFFFFFF000000020000000126#104, 0xFFFFFFFF000000020000000128#104,
      0xFFFFFFFF000000020000000129#104, 0xFFFFFFFF00000002000000012A#104, 0xFFFFFFFF00000002000000012B#104,
      0xFFFFFFFF000000020000000130#104, 0xFFFFFFFF000000020000000131#104, 0xFFFFFFFF000000020000000132#104,
      0xFFFFFFFF000000020000000133#104, 0xFFFFFFFF000000020000000134#104, 0xFFFFFFFF000000020000000135#104,
      0xFFFFFFFF000000020000000140#104, 0xFFFFFFFF000000020000000141#104, 0xFFFFFFFF000000020000000142#104,
      0xFFFFFFFF0000000200000001F0#104, 0xFFFFFFFF0000000200000001F1#104, 0xFFFFFFFF0000000200000001F2#104].map
        (fun w : OpWord => w.extractLsb' 0 8) =
      [0x00#8, 0x01#8, 0x02#8, 0x03#8, 0x04#8, 0x08#8, 0x09#8, 0x0A#8, 0x0B#8, 0x10#8, 0x11#8, 0x12#8,
      0x13#8, 0x20#8, 0x21#8, 0x22#8, 0x23#8, 0x24#8, 0x25#8, 0x26#8, 0x28#8, 0x29#8, 0x2A#8, 0x2B#8,
      0x30#8, 0x31#8, 0x32#8, 0x33#8, 0x34#8, 0x35#8, 0x40#8, 0x41#8, 0x42#8, 0xF0#8, 0xF1#8, 0xF2#8] := by
  decide +kernel

theorem witness_ReservedCodesEndWithUnknownCommand :
    opcField 0x00000000000000000000000005#104 ∉
      [0x00#8, 0x01#8, 0x02#8, 0x03#8, 0x04#8, 0x08#8, 0x09#8, 0x0A#8, 0x0B#8, 0x10#8, 0x11#8, 0x12#8, 0x13#8,
      0x20#8, 0x21#8, 0x22#8, 0x23#8, 0x24#8, 0x25#8, 0x26#8, 0x28#8, 0x29#8, 0x2A#8, 0x2B#8, 0x30#8, 0x31#8, 0x32#8,
      0x33#8, 0x34#8, 0x35#8, 0x40#8, 0x41#8, 0x42#8, 0xF0#8, 0xF1#8, 0xF2#8] ∧
    opcField 0xFFFFFFFFFFFFFFFFFFFFFFFFFF#104 ∉
      [0x00#8, 0x01#8, 0x02#8, 0x03#8, 0x04#8, 0x08#8, 0x09#8, 0x0A#8, 0x0B#8, 0x10#8, 0x11#8, 0x12#8, 0x13#8,
      0x20#8, 0x21#8, 0x22#8, 0x23#8, 0x24#8, 0x25#8, 0x26#8, 0x28#8, 0x29#8, 0x2A#8, 0x2B#8, 0x30#8, 0x31#8, 0x32#8,
      0x33#8, 0x34#8, 0x35#8, 0x40#8, 0x41#8, 0x42#8, 0xF0#8, 0xF1#8, 0xF2#8] := by
  rw [show opcField 0x00000000000000000000000005#104 = 0x05#8 by decide +kernel,
    show opcField 0xFFFFFFFFFFFFFFFFFFFFFFFFFF#104 = 0xFF#8 by decide +kernel]
  decide

theorem witness_StepRunsTheDecodedInstruction :
    ({ State.reset with port := [.op 0x00#104, .hwReset] } : State).port = .op 0x00#104 :: [.hwReset] ∧
      decode (.op 0x00#104) = .ok .sysNop ∧ WellFormed .sysNop ∧ State.reset.port = [] :=
  ⟨rfl, by decide +kernel, rfl, rfl⟩

/-- A state with an averaging cycle under way and a request pending. -/
def busy : State :=
  { State.reset with
    cfg := 1#32
    csmSt := .sent
    csmCls := some .gver
    rly := { (relaying 2#32 2#32 [] []).rly with cnt := 0 }
    port := [.op 0x00#104] }

theorem emptyMemory_wf (n d : Nat) : Memory.wf { draw := d, cells := [] } n :=
  ⟨List.Pairwise.nil, fun _ h => absurd h (List.not_mem_nil)⟩

/-- The invariant has a state with an active cycle. -/
theorem busy_inv : busy.Inv := by
  refine ⟨emptyMemory_wf _ _, by decide +kernel, fun _ h => absurd h (Option.some_ne_none _), by decide, .inl rfl, ?_, ?_⟩
  · rw [Relay.wf, if_pos (show busy.rly.active = true from rfl)]
    exact ⟨by decide +kernel, Memory.holds_writeBytes _ _ _, fun k _ h => absurd h (Nat.not_lt_zero k)⟩
  · refine ⟨fun k h => ?_, emptyMemory_wf _ _, by decide, Memory.writeBytes_wf _ (emptyMemory_wf _ _) (by decide)⟩
    simp [busy, relaying, loaded, State.reset, State.resetAt, Relay.resetAt, Memory.wf]

theorem witness_EveryStepKeepsTheInvariant : busy.Inv ∧ ∃ t, step busy = .next t := ⟨busy_inv, _, rfl⟩

theorem witness_InvariantStatesNeverFault : busy.Inv ∧ busy.port = [.op 0x00#104] := ⟨busy_inv, rfl⟩

theorem witness_OnlySixOperationsCanStop :
    ∀ total, Instr.crcFinal ≠ .frmH2n total ∧ Instr.crcFinal ≠ .frmN2h total ∧ Instr.crcFinal ≠ .cmdRxdone total ∧
      Instr.crcFinal ≠ .scnParse total ∧ Instr.crcFinal ≠ .rlyOut total ∧ Instr.crcFinal ≠ .rlyIn total := by simp

theorem witness_OnlyTheStatedWritersWrite :
    (∃ t, exec .sysNop busy = .next t) ∧ Instr.sysNop ≠ .sysReset ∧ (∀ v, Instr.sysNop ≠ .sysCfg v) ∧
      (∀ a, Instr.sysNop ∉ [Instr.rlyOut a, .rlyIn a, .rlyReset]) ∧
      (∀ a, Instr.rlyIn 3#32 ∉ [Instr.rlyOut a, .rlyReset]) ∧ (∃ t, exec (.rlyIn 3#32) busy = .next t) ∧
      (∀ a, Instr.rlyReset ≠ .rlyIn a ∧ Instr.rlyReset ≠ .rlyOut a) ∧ (∃ t, exec .rlyReset busy = .next t) ∧
      (∀ a b, Instr.sysNop ∉ [Instr.cmdGscn a, .cmdGsc2 a b, .cmdRxdone a, .scnParse a, .scnClear]) :=
  ⟨⟨_, rfl⟩, by simp, by simp, by simp, by simp, ⟨_, rfl⟩, by simp, ⟨_, rfl⟩, by simp⟩

end Sys2Proof.Tests
end

section
/-! SUPPORT. What one step does, by the host's next request and what it decodes to (R8, R71, R90), and the statement about it. -/

namespace Sys2Proof.Proofs.Step

open Sys2Proof Sys2Proof.Machine

/-- With no request pending the block has no activity of its own (R8). -/
theorem step_of_port_nil {s : State} (hport : s.port = []) : step s = .next s := by
  rw [step, hport]

/-- A request that decodes is taken from the port and executed whole (R69, R71). -/
theorem step_of_decode_ok {s : State} {r : HostRequest} {rest : List HostRequest} {i : Instr}
    (hport : s.port = r :: rest) (hdecode : decode r = .ok i) : step s = exec i { s with port := rest } := by
  simp only [step, hport, hdecode]

/-- A request that both decoders reject is taken from the port as no instruction (R7, R111, R391). -/
theorem step_of_decode_error {s : State} {r : HostRequest} {rest : List HostRequest} {e : DecodeError}
    (hport : s.port = r :: rest) (hdecode : decode r = .error e) :
    step s = takeRejected r { s with port := rest } := by
  simp only [step, hport, hdecode]

/-- Settles O54: the first and the second equation of `step`. Well-formedness is not needed, since what the decoders accept
is executed as it stands. -/
theorem stepRunsTheDecodedInstruction : Obligations.StepRunsTheDecodedInstruction := by
  refine ⟨?decodes, ?idle⟩
  case decodes =>
    intro s r rest i hport hdecode _
    exact step_of_decode_ok hport hdecode
  case idle => exact fun _ hport => step_of_port_nil hport

end Sys2Proof.Proofs.Step
end

section
/-! SUPPORT. The invariant of Safety.lean at reset and along a step (R37, R23, R27, R29, R32, R33, R200): what each operation
answers from a state that meets it, and the four statements that follow. -/

namespace Sys2Proof.Proofs.Invariant

open Sys2Proof Sys2Proof.Machine

/-! ### Reset -/

/-- The state of R37 meets the invariant, whatever its free values, parameters and pending requests are. -/
theorem resetAt_inv (d : Nat) (p : Params) (port : List HostRequest) : (State.resetAt d p port).Inv where
  fb := Memory.wf_empty _ _
  cfg := BitVec.zero_and
  csm := nofun
  str := Nat.zero_le _
  sr := ScanRecord.cleared_wf
  rly := Relay.wf_inactive rfl rfl
  stores := by
    refine ⟨fun k hk => ?_, Memory.wf_empty _ _, Nat.zero_le _, Memory.wf_empty _ _⟩
    simp [State.resetAt, Relay.resetAt, Memory.wf]

theorem resetNow_inv (s : State) : s.resetNow.Inv := resetAt_inv _ _ _

/-- Settles O1: each component is the literal that `State.resetAt` gives it, and the cleared record reads 0 everywhere. -/
theorem resetLeavesTheStatedValues : Obligations.ResetLeavesTheStatedValues := by
  have hparam : ∀ k (_ : k < 10), ScanRecord.cleared.param[k] = 0#32 := by simp [ScanRecord.cleared]
  have hsamples (p e : Nat) : ScanRecord.cleared.distAt p e = 0#32 ∧ ScanRecord.cleared.pwAt p e = 0#32 :=
    ⟨ScanRecord.cleared_distAt p e, ScanRecord.cleared_pwAt p e⟩
  exact ⟨rfl, rfl, rfl, rfl, rfl, rfl, rfl, rfl, rfl, rfl, rfl, rfl, hparam, rfl, rfl, hsamples, rfl, rfl, rfl, rfl, rfl⟩

/-- Settles O55: `State.reset` is the reset state with the default parameters and no request pending. -/
theorem resetMeetsTheInvariant : Obligations.ResetMeetsTheInvariant := resetAt_inv _ _ _

/-! ### Updates that keep the invariant -/

section Updates

variable {s : State} (h : s.Inv)
include h

/-- A write of the control register (R23). -/
theorem setCfg_inv (v : Word) : ({ s with cfg := cfgMask v } : State).Inv :=
  ⟨h.fb, cfgMask_cfgMask v, h.csm, h.str, h.sr, h.rly, h.stores⟩

/-- A move of the command cycle that enters no `(Sent, None)` (R200). -/
theorem setCsm_inv {st : CsmState} {cls : Option CmdClass} (hc : st = .sent → cls ≠ none) :
    ({ s with csmSt := st, csmCls := cls } : State).Inv :=
  ⟨h.fb, h.cfg, hc, h.str, h.sr, h.rly, h.stores⟩

/-- A write of the output fields whose string view lies inside `FB` (R29). -/
theorem setOutputs_inv (c0 c1 c2 : Word) {off len : Len} (hstr : off.toNat + len.toNat ≤ 65536) :
    ({ s with cv0 := c0, cv1 := c1, cv2 := c2, strOff := off, strLen := len } : State).Inv :=
  ⟨h.fb, h.cfg, h.csm, hstr, h.sr, h.rly, h.stores⟩

/-- A write of bytes inside the frame buffer (R69). -/
theorem writeFb_inv {a : Nat} {l : List Byte} (hl : a + l.length ≤ 65536) :
    ({ s with fb := s.fb.writeBytes a l } : State).Inv :=
  h.setFb _ (Memory.writeBytes_fb _ h.fb hl)

theorem bufWrite_inv (off : Nat) (b : Byte) : (bufWrite off b s).Inv := by
  by_cases hoff : off < 65536
  · rw [bufWrite_inside s b hoff]
    exact (h.setFb _ (Memory.write_wf b h.fb hoff)).succeed _ _
  · rw [bufWrite_outside s b (Nat.le_of_not_lt hoff)]
    exact h.raise _ _

/-- An accumulator with no cycle active keeps R33 if its stores are canonical and it holds no frame. -/
theorem setIdleRly_inv {r : Relay} (hact : r.active = false) (hcnt : r.cnt = 0) (hst : r.storesWf) :
    ({ s with rly := r } : State).Inv :=
  h.setRly r (Relay.wf_inactive hact hcnt) hst

end Updates

/-- A string of the frame buffer, held in 17 bits, ends where its field does (R29). -/
theorem stringView_inside {off len : Nat} (hsum : off + len ≤ 65536) :
    (BitVec.ofNat 17 off).toNat + (BitVec.ofNat 17 len).toNat ≤ 65536 := by
  simp only [BitVec.toNat_ofNat]
  omega

/-! ### The averaging cycle -/

/-- A started cycle has R33's bounds, holds no frame and keeps its rewritten request (R284). -/
theorem start_wf {n m : Word} (r : Relay) (p : Params) (req : List Byte) (hn2 : 2 ≤ n.toInt) (hn10 : n.toInt ≤ 10)
    (hm : 2 ≤ m.toInt) : (r.start n m req (plainRequest p)).wf p := by
  refine (Relay.wf_active rfl).2 ⟨?range, Memory.holds_writeBytes _ _ _, ?slots⟩
  case range => exact (Relay.inRange_iff _).2 ⟨hn2, hn10, hm, show (0 : Int) < n.toInt by omega⟩
  case slots => exact fun _ _ hk => absurd hk (Nat.not_lt_zero _)

/-- Starting a cycle writes its two requests inside their stores (R35, R284). -/
theorem start_storesWf {r : Relay} (h : r.storesWf) (n m : Word) (p : Params) {req : List Byte} (hreq : req.length ≤ 65536) :
    (r.start n m req (plainRequest p)).storesWf := by
  obtain ⟨hslots, horig, _, hout⟩ := h
  refine ⟨hslots, Store.put_wf horig hreq, ?len, Memory.writeBytes_wf _ hout (by simp [Config.gscnReqLen])⟩
  case len =>
    show (BitVec.ofNat 17 req.length).toNat ≤ 65536
    rw [BitVec.toNat_ofNat]
    omega

/-- A cycle with a further frame, still short of its number of scans (R33, R290). -/
theorem store_wf {r : Relay} {p : Params} {f : List Byte} (h : r.wf p) (hact : r.active = true) (hf : f.length ≤ 65536)
    (hmore : (r.cnt : Int) + 1 < r.n.toInt) : (r.store f).wf p := by
  obtain ⟨hin, hout, hslots⟩ := (Relay.wf_active hact).1 h
  obtain ⟨hn2, hn10, hm, hcnt⟩ := (Relay.inRange_iff _).1 hin
  have hfree : r.cnt < 10 := by omega
  have hcount : (r.store f).cnt = r.cnt + 1 := by rw [Relay.store_eq r f hfree]
  rw [Relay.wf_active (by simpa using hact), Relay.inRange_iff, Relay.store_n, Relay.store_m, Relay.store_lastOut, hcount]
  refine ⟨⟨hn2, hn10, hm, ?count⟩, hout, Relay.store_lengths hf hfree hslots⟩
  case count =>
    push_cast
    exact hmore

/-- The frames of a cycle are no longer than the buffer they came from (R34). -/
theorem frames_length {r : Relay} (hslots : ∀ k (_ : k < 10), k < r.cnt → (r.slot[k]).len.toNat ≤ 65536) :
    ∀ g ∈ r.frames, g.length ≤ 65536 := by
  intro g hg
  obtain ⟨st, hst, rfl⟩ := List.mem_map.1 hg
  obtain ⟨k, hk, rfl⟩ := List.mem_iff_getElem.1 hst
  simp only [List.length_take, Vector.length_toList] at hk
  simp only [Store.frame, Memory.bytes_length, List.getElem_take, Vector.getElem_toList]
  exact hslots k (by omega) (by omega)

/-- An average is no longer than the longest of its frames (R301). -/
theorem average_length_le {frames : List (List Byte)} {m n : Nat} {pw : Bool} {f : List Byte} (hm : 1 ≤ m)
    (hframes : ∀ g ∈ frames, g.length ≤ n) (h : average frames m pw = some f) : f.length ≤ n := by
  cases frames with
  | nil => cases h
  | cons g rest => exact (average_length hm h).trans (hframes g List.mem_cons_self)

/-! ### Sound results -/

/-- What the invariant promises of one step: the next state meets it again, or the block refuses; no fault (log entry 13). -/
inductive Sound : Result → Prop
  | next {t : State} (h : t.Inv) : Sound (.next t)
  | refused (r : Refusal) : Sound (.refused r)

theorem Sound.inv {t : State} (h : Sound (.next t)) : t.Inv := by
  cases h with
  | next ht => exact ht

theorem Sound.safe {r : Result} (h : Sound r) : Safe r := by
  cases h with
  | next _ => nofun
  | refused _ => nofun

/-- A test of the model: both branches are sound. -/
theorem Sound.ite {c : Prop} [Decidable c] {a b : Result} (ha : c → Sound a) (hb : ¬c → Sound b) :
    Sound (if c then a else b) := by
  split
  · exact ha ‹_›
  · exact hb ‹_›

section Families

variable {s : State} (h : s.Inv)
include h

/-- The shape of an operation that only reads: a result, or a failure. -/
theorem succeed_or_raise_sound (c : Prop) [Decidable c] (r0 r1 info : Word) (k : Status) :
    Sound (if c then .next (s.succeed r0 r1) else .next (s.raise k info)) :=
  .ite (fun _ => .next (h.succeed _ _)) fun _ => .next (h.raise _ _)

/-! ### The CRC unit and the frame codec (R134, R136, R164 to R171) -/

theorem crcUpdate_sound (off len : Word) : Sound (execCrcUpdate off len s) :=
  .ite (fun _ => .next ((h.setCrc _ _).succeed _ _)) fun _ => .next (h.raise _ _)

theorem crcCompute_sound (off len : Word) : Sound (execCrcCompute off len s) :=
  .ite (fun _ => .next (h.drawCrc.succeed _ _)) fun _ => .next (h.raise _ _)

theorem frmPut32_sound (off v : Word) : Sound (execFrmPut32 off v s) :=
  .ite (fun hin => .next ((writeFb_inv h ((inBuffer_iff _ _).1 hin)).succeed _ _)) fun _ => .next (h.raise _ _)

theorem frmStamp_sound (total : Word) : Sound (execFrmStamp total s) := by
  refine .ite (fun hok => .next (.succeed (writeFb_inv h.drawCrc ?_) _ _)) fun _ => .next (h.raiseLength _)
  obtain ⟨hlow, hcap⟩ := (frameLengthOk_iff _).1 hok
  rw [be32_length]
  omega

theorem frmVerify_sound (total : Word) : Sound (execFrmVerify total s) :=
  .ite (fun _ => .next (h.drawCrc.finish _ _ _)) fun _ => .next (h.raiseLength _)

theorem convertRegion_sound (total : Word) : Sound (convertRegion total s) :=
  .ite (fun hin => .ite (fun _ => .next ((h.swapRegion ((inBuffer_iff _ 0).1 hin)).succeed _ _)) fun _ => .refused _)
    fun _ => .next (h.raise _ _)

/-! ### The scan parser (R252) -/

theorem scnParse_sound (total : Word) : Sound (execScnParse total s) := by
  refine .ite (fun _ => ?_) fun _ => .next (h.raise _ _)
  cases hp : parseScan s.fb total.toNat with
  | parsed sr => exact .next ((h.setSr sr (parseScan_wf hp)).succeed _ _)
  | overflow => exact .next ((h.setSr _ ScanRecord.cleared_wf).raise _ _)
  | undefined => exact .refused _

/-! ### The command cycle (R209 to R219) -/

theorem cmdTxdone_sound (w : Word) : Sound (execCmdTxdone w s) := by
  refine .ite (fun _ => .next (h.raise _ _)) fun hready => ?_
  obtain ⟨hcls, hst⟩ := not_or.1 hready
  exact .ite (fun _ => .next ((setCsm_inv h fun hsent => absurd hsent hst).raise _ _))
    fun _ => .next ((setCsm_inv h fun _ => hcls).succeed _ _)

theorem extractRecord_sound {r : Nat} (hr : r ≤ 65536) : Sound (extractRecord r s) := by
  refine .ite (fun _ => .refused _) fun _ => ?_
  dsimp only
  cases hp : parseScan (s.swapRegion r).fb r with
  | parsed sr => exact .next (((h.swapRegion hr).setSr sr (parseScan_wf hp)).succeed _ _)
  | overflow => exact .next ((h.setSr _ ScanRecord.cleared_wf).raise _ _)
  | undefined => exact .refused _

/-- The version string starts at 8 and ends before the trailer. -/
theorem extractGver_sound {r : Nat} (hr : r ≤ 65536) : Sound (extractGver r s) := by
  refine .ite (fun _ => .refused _) fun hlen => .next (.succeed (setOutputs_inv (h.swapRegion (by omega)) _ _ _ ?_) _ _)
  have hn := (stringLength_bytes s.fb 8 (r - 12)).1
  exact stringView_inside (by omega)

theorem extractValue_sound {r : Nat} (hr : r ≤ 65536) : Sound (extractValue r s) :=
  .ite (fun _ => .refused _) fun _ => .next ((setOutputs_inv (h.swapRegion hr) _ _ _ h.str).succeed _ _)

/-- The information string starts after the numeric words and ends before the trailer. -/
theorem extractGpin_sound {r : Nat} (hr : r ≤ 65536) : Sound (extractGpin r s) := by
  refine .ite (fun _ => .refused _) fun hlen => .next (.succeed (setOutputs_inv (h.swapRegion (by omega)) _ _ _ ?_) _ _)
  have hn := (stringLength_bytes s.fb (8 + 4 * (s.params.rspFirst + 3)) (r - 4 - (8 + 4 * (s.params.rspFirst + 3)))).1
  exact stringView_inside (by omega)

theorem extractScan_sound {r : Nat} (hr : r ≤ 65536) : Sound (extractScan r s) :=
  .ite (fun _ => .refused _) fun _ => .next ((h.swapRegion hr).succeed _ _)

theorem extract_sound (x : CmdClass) {r : Nat} (hr : r ≤ 65536) : Sound (extract x r s) := by
  cases x with
  | gver => exact extractGver_sound h hr
  | gprm => exact extractValue_sound h hr
  | sprm => exact extractValue_sound h hr
  | gpin => exact extractGpin_sound h hr
  | scan => exact extractScan_sound h hr
  | gscn => exact extractRecord_sound h hr
  | gsc2 => exact extractRecord_sound h hr

/-- The reception of a frame in a cycle that has a class: the fault `sentWithoutClass` is not reached. -/
theorem receive_sound {x : Option CmdClass} (hx : x ≠ none) {r : Nat} (hr : r ≤ 65536) : Sound (receive x r s) := by
  refine .ite (fun _ => .next (h.finish _ _ _)) fun _ => .ite (fun _ => ?error) fun _ => ?other
  case error => exact .ite (fun _ => .refused _) fun _ => .next (h.finish _ _ _)
  case other =>
    cases x with
    | none => exact absurd rfl hx
    | some x => exact extract_sound h x hr

theorem cmdRxdone_sound (r : Word) : Sound (execCmdRxdone r s) := by
  refine .ite (fun _ => .next (h.raise _ _)) fun hst => .ite (fun _ => .next (h.endCycle.drawCrc.raise _ _)) fun _ =>
    .ite (fun _ => .next (h.endCycle.drawCrc.raise _ _)) fun _ => .ite (fun _ => .next (h.endCycle.raiseLength _))
      fun hlen => receive_sound h.endCycle.drawCrc (h.csm ?_) ?_
  · cases hs : s.csmSt with
    | idle => exact absurd hs hst
    | sent => rfl
  · exact ((frameLengthOk_iff _).1 (Bool.of_not_eq_false hlen)).2

theorem cmdRdout_sound (sel : Word) : Sound (execCmdRdout sel s) :=
  .ite (fun _ => .next (h.succeed _ _)) fun _ => .ite (fun _ => .next (h.succeed _ _)) fun _ =>
    .ite (fun _ => .next (h.succeed _ _)) fun _ => succeed_or_raise_sound h _ _ _ _ _

/-! ### The relay (R284, R290, R292) -/

/-- Forgetting the frames of the cycle keeps R33, whether the cycle ends with it or not. -/
theorem restartRly_inv (a : Bool) (ha : a = true → s.rly.active = true) :
    ({ s with rly := { s.rly with cnt := 0, active := a } } : State).Inv := by
  cases a with
  | false => exact setIdleRly_inv h rfl rfl h.stores
  | true =>
    obtain ⟨hin, hout, _⟩ := (Relay.wf_active (ha rfl)).1 h.rly
    refine h.setRly _ ((Relay.wf_active rfl).2 ⟨?_, hout, fun _ _ hk => absurd hk (Nat.not_lt_zero _)⟩) h.stores
    rw [Relay.inRange_iff] at hin ⊢
    obtain ⟨hn2, hn10, hm, _⟩ := hin
    exact ⟨hn2, hn10, hm, by simp only [Int.natCast_zero]; omega⟩

/-- `RLY.OUT` along its paths in the order of R284. -/
theorem rlyOut_sound (total : Word) : Sound (execRlyOut total s) := by
  by_cases hlen : 4 ≤ total.toNat ∧ total.toNat ≤ 65536
  case neg =>
    rw [execRlyOut_raise s total (by omega)]
    exact .next (h.raiseLength _)
  obtain ⟨hlow, hcap⟩ := hlen
  by_cases htag : s.fb.bytes 0 4 = tagBytes .gsc2
  case neg =>
    rw [execRlyOut_pass s total hlow hcap htag]
    exact .next (h.drawCrc.succeed _ _)
  by_cases hshort : total.toNat < 20
  case pos =>
    rw [execRlyOut_short s total hlow hshort htag]
    exact .refused _
  by_cases hone : (s.fb.beWord 8).toInt ≤ 1 ∨ (s.fb.beWord 12).toInt ≤ 1
  case pos =>
    rw [execRlyOut_deactivate s total (by omega) hcap htag hone]
    exact .next ((restartRly_inv h.drawCrc false nofun).succeed _ _)
  obtain ⟨hn, hm⟩ := not_or.1 hone
  by_cases hmany : 10 < (s.fb.beWord 8).toInt
  case pos =>
    rw [execRlyOut_refused s total (by omega) hcap htag hmany (by omega)]
    exact .refused _
  rw [execRlyOut_rewrite s total (by omega) hcap htag (by omega) (by omega) (by omega)]
  have hplain : 0 + (plainRequest s.params).length ≤ 65536 := by simp
  have hreq : (s.fb.bytes 0 total.toNat).length ≤ 65536 := by simpa using hcap
  refine .next (.succeed (.setRly (writeFb_inv h.drawCrc hplain) _ ?cycle ?stores) _ _)
  case cycle => exact start_wf _ _ _ (by omega) (by omega) (by omega)
  case stores => exact start_storesWf h.stores _ _ _ hreq

/-- `RLY.IN` along its paths in the order of R290: the fault `relayOutOfRange` is not reached. -/
theorem rlyIn_sound (total : Word) : Sound (execRlyIn total s) := by
  by_cases hlen : 4 ≤ total.toNat ∧ total.toNat ≤ 65536
  case neg =>
    rw [execRlyIn_raise s total (by omega)]
    exact .next (h.raiseLength _)
  obtain ⟨hlow, hcap⟩ := hlen
  by_cases hpass : s.rly.active = false ∨ s.fb.bytes 0 4 ≠ tagBytes .gscn
  case pos =>
    rw [execRlyIn_pass s total hlow hcap hpass]
    exact .next (h.drawCrc.succeed _ _)
  obtain ⟨hact, htag⟩ : s.rly.active = true ∧ s.fb.bytes 0 4 = tagBytes .gscn := by simpa using hpass
  by_cases hcrc : frameIntact s.fb total.toNat = true
  case neg =>
    rw [execRlyIn_crcFailure s total hlow hcap hact htag (Bool.of_not_eq_true hcrc)]
    exact .next ((restartRly_inv h.drawCrc s.rly.active id).replay _)
  obtain ⟨hin, hout, hslots⟩ := (Relay.wf_active hact).1 h.rly
  have hrange := (Relay.inRange_iff _).1 hin
  have hframe : (s.fb.bytes 0 total.toNat).length ≤ 65536 := by simpa using hcap
  have hstores := Relay.store_storesWf h.stores _ hframe
  by_cases hmore : (s.rly.cnt : Int) + 1 < s.rly.n.toInt
  case pos =>
    rw [execRlyIn_store s total hlow hcap hact htag hcrc hin hmore]
    exact .next ((h.drawCrc.setRly _ (store_wf h.rly hact hframe hmore) hstores).replay _)
  rw [execRlyIn_complete s total hlow hcap hact htag hcrc hin (by omega)]
  split
  case h_1 => exact .refused _
  case h_2 f hf =>
    have hcollected : ∀ g ∈ s.rly.frames ++ [s.fb.bytes 0 total.toNat], g.length ≤ 65536 := by
      intro g hg
      rcases List.mem_append.1 hg with hg | hg
      · exact frames_length hslots g hg
      · rw [List.mem_singleton.1 hg]
        exact hframe
    have hm : 1 ≤ s.rly.m.toNat := by
      rw [← s32_toNat (by simp only [s32]; omega)]
      simp only [s32]
      omega
    have hfits : 0 + f.length ≤ 65536 := by
      have := average_length_le hm hcollected hf
      omega
    refine .next (.succeed (setIdleRly_inv (writeFb_inv h.drawCrc hfits) rfl rfl ?_) _ _)
    exact hstores

theorem rlyReset_sound : Sound (execRlyReset s) := by
  obtain ⟨hslots, hreq, _, hout⟩ := h.stores
  refine .next (.succeed (setIdleRly_inv h rfl rfl ?_) _ _)
  exact ⟨hslots, hreq, Nat.zero_le _, hout⟩

/-! ### Every instruction -/

/-- Each instruction keeps the invariant where it completes, and never faults. -/
theorem exec_sound (i : Instr) : Sound (exec i s) := by
  cases i with
  | sysNop => exact .next (h.succeed _ _)
  | crcReset => exact .next ((h.setCrc _ _).succeed _ _)
  | crcUpdate off len => exact crcUpdate_sound h off len
  | crcFinal => exact .next (h.drawCrc.succeed _ _)
  | crcCompute off len => exact crcCompute_sound h off len
  | bufRd off => exact succeed_or_raise_sound h _ _ _ _ _
  | bufWr off b => exact .next (bufWrite_inv h _ _)
  | frmGet32 off => exact succeed_or_raise_sound h _ _ _ _ _
  | frmPut32 off v => exact frmPut32_sound h off v
  | frmStamp total => exact frmStamp_sound h total
  | frmVerify total => exact frmVerify_sound h total
  | frmH2n total => exact convertRegion_sound h total
  | frmN2h total => exact convertRegion_sound h total
  | cmdGver => exact .next (h.build _ _ (by simp))
  | cmdGprm id => exact .next (h.build _ _ (by simp))
  | cmdSprm id value => exact .next (h.build _ _ (by simp))
  | cmdGpin id => exact .next (h.build _ _ (by simp))
  | cmdScan w => exact .next (h.build _ _ (by simp))
  | cmdGscn scanNumber => exact .next (h.build _ _ (by simp))
  | cmdGsc2 n m => exact .next (h.build _ _ (by simp))
  | cmdTxdone w => exact cmdTxdone_sound h w
  | cmdRxdone r => exact cmdRxdone_sound h r
  | cmdRdout sel => exact cmdRdout_sound h sel
  | cmdErrmap c => exact .next (h.succeed _ _)
  | scnParse total => exact scnParse_sound h total
  | scnClear => exact .next ((h.setSr _ ScanRecord.cleared_wf).succeed _ _)
  | scnInfo => exact .next (h.succeed _ _)
  | scnGetp idx => exact succeed_or_raise_sound h _ _ _ _ _
  | scnGetd p e => exact succeed_or_raise_sound h _ _ _ _ _
  | scnGetw p e => exact succeed_or_raise_sound h _ _ _ _ _
  | rlyOut total => exact rlyOut_sound h total
  | rlyIn total => exact rlyIn_sound h total
  | rlyReset => exact rlyReset_sound h
  | sysReset => exact .next ((resetNow_inv s).succeed _ _)
  | sysCfg v => exact .next ((setCfg_inv h v).succeed _ _)
  | sysRdcfg => exact .next (h.succeed _ _)
  | tagGver length payload crc => exact .next (h.deliver _)
  | tagGprm length payload crc => exact .next (h.deliver _)
  | tagSprm length payload crc => exact .next (h.deliver _)
  | tagGpin length payload crc => exact .next (h.deliver _)
  | tagScan length payload crc => exact .next (h.deliver _)
  | tagGscn length payload crc => exact .next (h.deliver _)
  | tagGsc2 length payload crc => exact .next (h.deliver _)
  | tagErr length payload crc => exact .next (h.deliver _)

/-- A request that is no instruction (R7, R111, R391). -/
theorem takeRejected_sound (r : HostRequest) : Sound (takeRejected r s) := by
  cases r with
  | op w => exact .next (h.raise _ _)
  | frame l => exact .next (h.deliver l)
  | hwReset => exact .next (resetNow_inv s)

theorem step_sound : Sound (step s) := by
  cases hport : s.port with
  | nil =>
    rw [Step.step_of_port_nil hport]
    exact .next h
  | cons r rest =>
    cases hdecode : decode r with
    | ok i =>
      rw [Step.step_of_decode_ok hport hdecode]
      exact exec_sound (h.setPort rest) i
    | error e =>
      rw [Step.step_of_decode_error hport hdecode]
      exact takeRejected_sound (h.setPort rest) r

end Families

/-- Settles O56: a next state of a sound step meets the invariant. -/
theorem everyStepKeepsTheInvariant : Obligations.EveryStepKeepsTheInvariant := by
  intro s t h hstep
  have hsound := step_sound h
  rw [hstep] at hsound
  exact hsound.inv

/-- Settles O57: a sound step is no fault. -/
theorem invariantStatesNeverFault : Obligations.InvariantStatesNeverFault :=
  fun _ h => (step_sound h).safe

end Sys2Proof.Proofs.Invariant
end

section
/-! SUPPORT. What an instruction reads of the response and what it writes (R20, R21, R22): the frame of each instruction as a set
of components, and the two statements that follow. -/

namespace Sys2Proof.Proofs.Footprint

open Sys2Proof Sys2Proof.Machine

/-! ### The response is written and never read (R21, R22) -/

/-- The byte write ends with a response of its own, whatever the one before it. -/
theorem bufWrite_finish (off : Nat) (c : Byte) (s : State) (k : Status) (a b : Word) :
    bufWrite off c (s.finish k a b) = bufWrite off c s := rfl

/-- So does the delivery of a frame, which has a first byte. -/
theorem deliver_frameBytes_finish (t : Tag) (length : Word) (payload : List Byte) (crc : Word) (s : State) (k : Status)
    (a b : Word) :
    deliver 0 (frameBytes t length payload crc) (s.finish k a b) = deliver 0 (frameBytes t length payload crc) s := by
  cases hbytes : frameBytes t length payload crc with
  | nil =>
    have hlen := frameBytes_length t length payload crc
    rw [hbytes, List.length_nil] at hlen
    omega
  | cons c rest => rw [deliver_cons, bufWrite_finish, deliver_cons]

/-- The starting response is `s.finish k a b`. Every operation tests and copies other components only, and ends in a `finish` of
its own, so its two sides are the same by definition; a frame row is a delivery. -/
theorem exec_finish (i : Instr) (s : State) (k : Status) (a b : Word) : exec i (s.finish k a b) = exec i s := by
  cases i with
  | tagGver | tagGprm | tagSprm | tagGpin | tagScan | tagGscn | tagGsc2 | tagErr =>
    exact congrArg Host.Outcome.next (deliver_frameBytes_finish _ _ _ _ s k a b)
  | _ => rfl

/-- Settles O59: the response before the instruction is one `finish` more. -/
theorem noOperationReadsTheResponse : Obligations.NoOperationReadsTheResponse :=
  fun i s a b k => exec_finish i s k a b

/-! ### The components an instruction writes (R20) -/

/-- A set of the components of R20 other than the response; the relay's in the four parts that share their writers. -/
structure Writes where
  cfg : Bool := false
  crc : Bool := false
  fb : Bool := false
  /-- `CSM`. -/
  csm : Bool := false
  /-- `CV0`, `CV1`, `CV2`, `STROFF`, `STRLEN`. -/
  outputs : Bool := false
  sr : Bool := false
  /-- `RLY.ACTIVE`, `RLY.CNT`. -/
  cycle : Bool := false
  /-- `RLY.N`, `RLY.M`, `RLY.ORIGREQ.LEN`. -/
  request : Bool := false
  slots : Bool := false
  /-- `RLY.LASTOUT` and the bytes of `RLY.ORIGREQ`. -/
  kept : Bool := false

/-- The "written by" column of R20, read by instruction. -/
def writes : Instr → Writes
  | .crcReset | .crcUpdate .. | .crcFinal | .crcCompute .. | .frmVerify _ => { crc := true }
  | .bufWr .. | .frmPut32 .. | .frmH2n _ | .frmN2h _ => { fb := true }
  | .frmStamp _ => { crc := true, fb := true }
  | .cmdGver | .cmdGprm _ | .cmdSprm .. | .cmdGpin _ | .cmdScan _ =>
    { crc := true, fb := true, csm := true, outputs := true }
  | .cmdGscn _ | .cmdGsc2 .. | .cmdRxdone _ => { crc := true, fb := true, csm := true, outputs := true, sr := true }
  | .cmdTxdone _ => { csm := true }
  | .scnParse _ | .scnClear => { sr := true }
  | .rlyOut _ => { crc := true, fb := true, cycle := true, request := true, kept := true }
  | .rlyIn _ => { crc := true, fb := true, cycle := true, slots := true }
  | .rlyReset => { cycle := true, request := true }
  | .sysReset => ⟨true, true, true, true, true, true, true, true, true, true⟩
  | .sysCfg _ => { cfg := true }
  | .tagGver .. | .tagGprm .. | .tagSprm .. | .tagGpin .. | .tagScan .. | .tagGscn .. | .tagGsc2 .. | .tagErr .. =>
    { fb := true }
  | .sysNop | .bufRd _ | .frmGet32 _ | .cmdRdout _ | .cmdErrmap _ | .scnInfo | .scnGetp _ | .scnGetd .. | .scnGetw ..
  | .sysRdcfg => {}

/-- The accumulator `r` with the parts in the set taken from `r'`. -/
def Writes.relay (w : Writes) (r r' : Relay) : Relay where
  active := bif w.cycle then r'.active else r.active
  n := bif w.request then r'.n else r.n
  m := bif w.request then r'.m else r.m
  cnt := bif w.cycle then r'.cnt else r.cnt
  slot := bif w.slots then r'.slot else r.slot
  origReq :=
    { len := bif w.request then r'.origReq.len else r.origReq.len
      bytes := bif w.kept then r'.origReq.bytes else r.origReq.bytes }
  lastOut := bif w.kept then r'.lastOut else r.lastOut

/-- The state `s` with the components in the set, the response and the draw counter taken from `t`. -/
def Writes.state (w : Writes) (s t : State) : State where
  res0 := t.res0
  res1 := t.res1
  status := t.status
  cfg := bif w.cfg then t.cfg else s.cfg
  crcR := bif w.crc then t.crcR else s.crcR
  fb := bif w.fb then t.fb else s.fb
  csmSt := bif w.csm then t.csmSt else s.csmSt
  csmCls := bif w.csm then t.csmCls else s.csmCls
  cv0 := bif w.outputs then t.cv0 else s.cv0
  cv1 := bif w.outputs then t.cv1 else s.cv1
  cv2 := bif w.outputs then t.cv2 else s.cv2
  strOff := bif w.outputs then t.strOff else s.strOff
  strLen := bif w.outputs then t.strLen else s.strLen
  sr := bif w.sr then t.sr else s.sr
  rly := w.relay s.rly t.rly
  params := s.params
  port := s.port
  draws := t.draws

/-- From `s`, the result changes no more than the components in the set. -/
def Writes.Bounds (w : Writes) (s : State) (r : Result) : Prop := ∀ t, r = .next t → t = w.state s t

namespace Writes.Bounds

variable {w : Writes} {s : State}

theorem next {t : State} (h : t = w.state s t) : w.Bounds s (.next t) := by
  rintro _ ⟨⟩
  exact h

theorem refused (r : Refusal) : w.Bounds s (.refused r) := by
  intro _ h
  cases h

theorem fault (r : Fault) : w.Bounds s (.fault r) := by
  intro _ h
  cases h

/-- A test of the model: both branches stay within the set. -/
theorem ite {c : Prop} [Decidable c] {a b : Result} (ha : w.Bounds s a) (hb : w.Bounds s b) :
    w.Bounds s (if c then a else b) := by
  split
  · exact ha
  · exact hb

/-- The shape of an operation with one test: a result or a failure. -/
theorem ite_next {c : Prop} [Decidable c] {t t' : State} (h : t = w.state s t) (h' : t' = w.state s t') :
    w.Bounds s (if c then .next t else .next t') :=
  .ite (.next h) (.next h')

end Writes.Bounds

/-! ### The operations with more than one test -/

section Operations

variable (s : State)

theorem convertRegion_bounds (total : Word) : ({ fb := true } : Writes).Bounds s (convertRegion total s) :=
  .ite (.ite (.next rfl) (.refused _)) (.next rfl)

theorem deliver_bounds (off : Nat) (l : List Byte) : ({ fb := true } : Writes).Bounds s (.next (deliver off l s)) := by
  obtain ⟨m, k, e⟩ := deliver_frame l off s
  refine .next ?_
  rw [e]
  rfl

theorem cmdTxdone_bounds (w : Word) : (writes (.cmdTxdone w)).Bounds s (execCmdTxdone w s) :=
  .ite (.next rfl) (.ite_next rfl rfl)

theorem cmdRdout_bounds (sel : Word) : (writes (.cmdRdout sel)).Bounds s (execCmdRdout sel s) :=
  .ite (.next rfl) (.ite (.next rfl) (.ite (.next rfl) (.ite_next rfl rfl)))

/-- The reception runs on the state with the cycle ended, which has lost only `CSM` and `CRC.R`. -/
theorem receive_bounds (r : Nat) (word : Word) :
    (writes (.cmdRxdone word)).Bounds s
      (receive s.csmCls r ({ s with csmSt := .idle, csmCls := none } : State).drawCrc) := by
  refine .ite (.next rfl) (.ite (.ite (.refused _) (.next rfl)) ?_)
  cases s.csmCls with
  | none => exact .fault _
  | some x =>
    intro t ht
    rw [extract_frame x r _ t ht]
    rfl

theorem cmdRxdone_bounds (r : Word) : (writes (.cmdRxdone r)).Bounds s (execCmdRxdone r s) :=
  .ite (.next rfl) (.ite (.next rfl) (.ite (.next rfl) (.ite (.next rfl) (receive_bounds s r.toNat r))))

theorem scnParse_bounds (total : Word) : (writes (.scnParse total)).Bounds s (execScnParse total s) := by
  refine .ite ?_ (.next rfl)
  cases parseScan s.fb total.toNat with
  | parsed sr => exact .next rfl
  | overflow => exact .next rfl
  | undefined => exact .refused _

theorem rlyOut_bounds (total : Word) : (writes (.rlyOut total)).Bounds s (execRlyOut total s) :=
  .ite (.next rfl) (.ite (.next rfl) (.ite (.refused _) (.ite (.next rfl) (.ite (.refused _) (.next rfl)))))

/-- Storing a frame writes a slot and the count (R290). -/
theorem relay_store (r : Relay) (f : List Byte) : ∃ slot cnt, r.store f = { r with slot := slot, cnt := cnt } := by
  by_cases hfree : r.cnt < 10
  · exact ⟨_, _, Relay.store_eq r f hfree⟩
  · exact ⟨r.slot, r.cnt, by rw [Relay.store, dif_neg hfree]⟩

theorem rlyIn_bounds (total : Word) : (writes (.rlyIn total)).Bounds s (execRlyIn total s) := by
  refine .ite (.next rfl) (.ite (.next rfl) (.ite (.next rfl) (.ite (.fault _) ?_)))
  obtain ⟨slot, cnt, hstore⟩ := relay_store s.rly (s.fb.bytes 0 total.toNat)
  simp only [hstore]
  refine .ite (.next rfl) ?_
  split
  · exact .refused _
  · exact .next rfl

/-! ### Every instruction -/

/-- Each instruction writes no more than R20 allows it. -/
theorem exec_bounds (i : Instr) : (writes i).Bounds s (exec i s) := by
  cases i with
  | sysNop | sysReset | sysCfg | sysRdcfg | crcReset | crcFinal => exact .next rfl
  | cmdErrmap | scnClear | scnInfo | rlyReset => exact .next rfl
  | cmdGver | cmdGprm | cmdSprm | cmdGpin | cmdScan | cmdGscn | cmdGsc2 => exact .next rfl
  | crcUpdate | crcCompute | bufRd | frmGet32 | frmPut32 | frmStamp | frmVerify | scnGetp | scnGetd | scnGetw =>
    exact .ite_next rfl rfl
  | bufWr off b => exact deliver_bounds s off.toNat [byteOperand b]
  | frmH2n total => exact convertRegion_bounds s total
  | frmN2h total => exact convertRegion_bounds s total
  | cmdTxdone w => exact cmdTxdone_bounds s w
  | cmdRxdone r => exact cmdRxdone_bounds s r
  | cmdRdout sel => exact cmdRdout_bounds s sel
  | scnParse total => exact scnParse_bounds s total
  | rlyOut total => exact rlyOut_bounds s total
  | rlyIn total => exact rlyIn_bounds s total
  | tagGver | tagGprm | tagSprm | tagGpin | tagScan | tagGscn | tagGsc2 | tagErr => exact deliver_bounds s 0 _

end Operations

/-! ### What a set leaves unchanged -/

section Unchanged

variable {w : Writes} {s t : State} (h : t = w.state s t)
include h

theorem cfg_unchanged (hw : w.cfg = false) : t.cfg = s.cfg := by
  rw [h, Writes.state, hw, cond_false]

theorem crcR_unchanged (hw : w.crc = false) : t.crcR = s.crcR := by
  rw [h, Writes.state, hw, cond_false]

theorem fb_unchanged (hw : w.fb = false) : t.fb = s.fb := by
  rw [h, Writes.state, hw, cond_false]

theorem csm_unchanged (hw : w.csm = false) : t.csmSt = s.csmSt ∧ t.csmCls = s.csmCls := by
  rw [h]
  simp [Writes.state, hw]

theorem outputs_unchanged (hw : w.outputs = false) :
    t.cv0 = s.cv0 ∧ t.cv1 = s.cv1 ∧ t.cv2 = s.cv2 ∧ t.strOff = s.strOff ∧ t.strLen = s.strLen := by
  rw [h]
  simp [Writes.state, hw]

theorem sr_unchanged (hw : w.sr = false) : t.sr = s.sr := by
  rw [h, Writes.state, hw, cond_false]

theorem request_unchanged (hw : w.request = false) (hk : w.kept = false) :
    t.rly.n = s.rly.n ∧ t.rly.m = s.rly.m ∧ t.rly.origReq = s.rly.origReq := by
  rw [h]
  simp [Writes.state, Writes.relay, hw, hk]

theorem slots_unchanged (hw : w.slots = false) : t.rly.slot = s.rly.slot := by
  rw [h]
  simp [Writes.state, Writes.relay, hw]

theorem kept_unchanged (hw : w.kept = false) :
    t.rly.lastOut = s.rly.lastOut ∧ t.rly.origReq.bytes = s.rly.origReq.bytes := by
  rw [h]
  simp [Writes.state, Writes.relay, hw]

theorem rly_unchanged (hcycle : w.cycle = false) (hrequest : w.request = false) (hslots : w.slots = false)
    (hkept : w.kept = false) : t.rly = s.rly := by
  rw [h]
  simp [Writes.state, Writes.relay, hcycle, hrequest, hslots, hkept]

end Unchanged

/-! ### The writers of each component, as R20 lists them -/

section Writers

variable {i : Instr}

theorem writes_fb
    (h : i ∈ [Instr.sysNop, .sysRdcfg, .scnClear, .scnInfo, .crcReset, .crcFinal, .rlyReset] ∨
      ∃ a b, i ∈ [Instr.crcUpdate a b, .crcCompute a b, .bufRd a, .frmGet32 a, .frmVerify a, .cmdTxdone a, .cmdRdout a,
        .cmdErrmap a, .scnParse a, .scnGetp a, .scnGetd a b, .scnGetw a b, .sysCfg a]) : (writes i).fb = false := by
  cases i with
  | bufWr | frmPut32 | frmStamp | frmH2n | frmN2h => simp at h
  | cmdGver | cmdGprm | cmdSprm | cmdGpin | cmdScan | cmdGscn | cmdGsc2 | cmdRxdone => simp at h
  | rlyOut | rlyIn | sysReset => simp at h
  | tagGver | tagGprm | tagSprm | tagGpin | tagScan | tagGscn | tagGsc2 | tagErr => simp at h
  | _ => rfl

variable (hne : i ≠ .sysReset)
include hne

theorem writes_cfg (h : ∀ v, i ≠ .sysCfg v) : (writes i).cfg = false := by
  cases i with
  | sysReset => exact absurd rfl hne
  | sysCfg v => exact absurd rfl (h v)
  | _ => rfl

theorem writes_csm
    (h : ∀ a b, i ∉ [Instr.cmdGver, .cmdGprm a, .cmdSprm a b, .cmdGpin a, .cmdScan a, .cmdGscn a, .cmdGsc2 a b, .cmdTxdone a,
      .cmdRxdone a]) : (writes i).csm = false := by
  cases i with
  | sysReset => exact absurd rfl hne
  | cmdGver => exact absurd (by simp) (h 0 0)
  | cmdGprm a | cmdGpin a | cmdScan a | cmdGscn a | cmdTxdone a | cmdRxdone a => exact absurd (by simp) (h a 0)
  | cmdSprm a b | cmdGsc2 a b => exact absurd (by simp) (h a b)
  | _ => rfl

theorem writes_outputs
    (h : ∀ a b, i ∉ [Instr.cmdGver, .cmdGprm a, .cmdSprm a b, .cmdGpin a, .cmdScan a, .cmdGscn a, .cmdGsc2 a b,
      .cmdRxdone a]) : (writes i).outputs = false := by
  cases i with
  | sysReset => exact absurd rfl hne
  | cmdGver => exact absurd (by simp) (h 0 0)
  | cmdGprm a | cmdGpin a | cmdScan a | cmdGscn a | cmdRxdone a => exact absurd (by simp) (h a 0)
  | cmdSprm a b | cmdGsc2 a b => exact absurd (by simp) (h a b)
  | _ => rfl

theorem writes_sr (h : ∀ a b, i ∉ [Instr.cmdGscn a, .cmdGsc2 a b, .cmdRxdone a, .scnParse a, .scnClear]) :
    (writes i).sr = false := by
  cases i with
  | sysReset => exact absurd rfl hne
  | scnClear => exact absurd (by simp) (h 0 0)
  | cmdGscn a | cmdRxdone a | scnParse a => exact absurd (by simp) (h a 0)
  | cmdGsc2 a b => exact absurd (by simp) (h a b)
  | _ => rfl

theorem writes_cycle (h : ∀ a, i ∉ [Instr.rlyOut a, .rlyIn a, .rlyReset]) : (writes i).cycle = false := by
  cases i with
  | sysReset => exact absurd rfl hne
  | rlyReset => exact absurd (by simp) (h 0)
  | rlyOut a | rlyIn a => exact absurd (by simp) (h a)
  | _ => rfl

theorem writes_request (h : ∀ a, i ∉ [Instr.rlyOut a, .rlyReset]) : (writes i).request = false := by
  cases i with
  | sysReset => exact absurd rfl hne
  | rlyReset => exact absurd (by simp) (h 0)
  | rlyOut a => exact absurd (by simp) (h a)
  | _ => rfl

theorem writes_slots (h : ∀ a, i ≠ .rlyIn a) : (writes i).slots = false := by
  cases i with
  | sysReset => exact absurd rfl hne
  | rlyIn a => exact absurd rfl (h a)
  | _ => rfl

theorem writes_kept (h : ∀ a, i ≠ .rlyOut a) : (writes i).kept = false := by
  cases i with
  | sysReset => exact absurd rfl hne
  | rlyOut a => exact absurd rfl (h a)
  | _ => rfl

theorem writes_crc
    (h : ∀ a b, i ∉ [Instr.crcReset, .crcUpdate a b, .crcFinal, .crcCompute a b, .frmStamp a, .frmVerify a, .cmdGver,
      .cmdGprm a, .cmdSprm a b, .cmdGpin a, .cmdScan a, .cmdGscn a, .cmdGsc2 a b, .cmdRxdone a, .rlyOut a, .rlyIn a]) :
    (writes i).crc = false := by
  cases i with
  | sysReset => exact absurd rfl hne
  | crcReset | crcFinal | cmdGver => exact absurd (by simp) (h 0 0)
  | frmStamp a | frmVerify a | cmdGprm a | cmdGpin a | cmdScan a | cmdGscn a | cmdRxdone a | rlyOut a | rlyIn a =>
    exact absurd (by simp) (h a 0)
  | crcUpdate a b | crcCompute a b | cmdSprm a b | cmdGsc2 a b => exact absurd (by simp) (h a b)
  | _ => rfl

end Writers

/-- Settles O60: the instruction's set bounds what it changes, and a component outside the set is unchanged. -/
theorem onlyTheStatedWritersWrite : Obligations.OnlyTheStatedWritersWrite := by
  intro i s t hexec hne
  have h : t = (writes i).state s t := exec_bounds s i t hexec
  refine ⟨?params, ?port, ?cfg, ?fb, ?csm, ?outputs, ?sr, ?rly, ?request, ?slots, ?kept, ?crc⟩
  case params => rw [h, Writes.state]
  case port => rw [h, Writes.state]
  case cfg => exact fun hi => cfg_unchanged h (writes_cfg hne hi)
  case fb => exact fun hi => fb_unchanged h (writes_fb hi)
  case csm => exact fun hi => csm_unchanged h (writes_csm hne hi)
  case outputs => exact fun hi => outputs_unchanged h (writes_outputs hne hi)
  case sr => exact fun hi => sr_unchanged h (writes_sr hne hi)
  case rly =>
    intro hi
    have hout : ∀ a, i ≠ .rlyOut a := fun a e => hi a (by rw [e]; simp)
    have hin : ∀ a, i ≠ .rlyIn a := fun a e => hi a (by rw [e]; simp)
    have hrequest : ∀ a, i ∉ [Instr.rlyOut a, .rlyReset] := fun a hm =>
      hi a (List.Sublist.mem hm ((List.sublist_cons_self _ _).cons_cons _))
    exact rly_unchanged h (writes_cycle hne hi) (writes_request hne hrequest) (writes_slots hne hin) (writes_kept hne hout)
  case request =>
    intro hi
    have hout : ∀ a, i ≠ .rlyOut a := fun a e => hi a (by rw [e]; simp)
    exact request_unchanged h (writes_request hne hi) (writes_kept hne hout)
  case slots => exact fun hi => slots_unchanged h (writes_slots hne hi)
  case kept => exact fun hi => kept_unchanged h (writes_kept hne hi)
  case crc => exact fun hi => crcR_unchanged h (writes_crc hne hi)

end Sys2Proof.Proofs.Footprint
end

section
/-! SUPPORT. The frame codec on a byte string that carries its own trailer (R94, R165, R168), the request frames of the seven
builds (R91, R201), and the statement that a built frame verifies (R63). -/

namespace Sys2Proof.Proofs.Frames

open Sys2Proof Sys2Proof.Machine

/-! ### The parts of a byte string a store holds -/

/-- A store that holds a byte string holds its first part. -/
theorem holds_of_append {m : Memory} {a : Nat} {l l' : List Byte} (h : m.Holds a (l ++ l')) : m.Holds a l := by
  rw [Memory.Holds, List.length_append, Memory.bytes_add] at h
  exact List.append_inj_left h (m.bytes_length a l.length)

/-- The word a store reads where the byte string it holds has one in network order. -/
theorem beWord_of_holds {m : Memory} {pre suf : List Byte} {v : Word} (h : m.Holds 0 (pre ++ (be32 v ++ suf))) :
    m.beWord pre.length = v := by
  have hfit : pre.length + 4 ≤ (pre ++ (be32 v ++ suf)).length := by simp
  calc m.beWord pre.length
      = beAt (m.bytes 0 (pre ++ (be32 v ++ suf)).length) pre.length := by
        rw [m.beAt_bytes 0 _ _ hfit, Nat.zero_add]
    _ = beAt (pre ++ (be32 v ++ suf)) pre.length := by rw [h]
    _ = v := beAt_append_be32 pre v suf

/-! ### `FRM.VERIFY` of a stamped frame (R94, R168) -/

/-- `FRM.VERIFY` succeeds where the trailer is the CRC of the bytes before it. -/
theorem frmVerify_of_trailer {s : State} {total : Word} (hlen : 4 < total.toNat ∧ total.toNat ≤ 65536)
    (hcrc : crc32 (s.fb.bytes 0 (total.toNat - 4)) = s.fb.beWord (total.toNat - 4)) :
    ∃ t, exec (.frmVerify total) s = .next t ∧ t.status = .success := by
  have hexec : exec (.frmVerify total) s = execFrmVerify total s := rfl
  rw [hexec, execFrmVerify, if_pos ((frameLengthOk_iff _).2 hlen)]
  exact ⟨_, rfl, if_pos hcrc⟩

/-- `FRM.VERIFY` succeeds on a stamped frame at the start of the buffer. -/
theorem frmVerify_of_stamped {s : State} {total : Word} {body : List Byte} (hfb : s.fb.Holds 0 (stamped body))
    (htotal : total.toNat = body.length + 4) (hbody : 0 < body.length) (hcap : total.toNat ≤ 65536) :
    ∃ t, exec (.frmVerify total) s = .next t ∧ t.status = .success := by
  have hbytes : s.fb.bytes 0 body.length = body := holds_of_append hfb
  have htrailer : s.fb.beWord body.length = crc32 body :=
    beWord_of_holds (suf := []) (by rw [List.append_nil]; exact hfb)
  apply frmVerify_of_trailer
  · omega
  · rw [htotal, Nat.add_sub_cancel, hbytes, htrailer]

/-! ### The request frames (R91, R201) -/

/-- The Length field of a request frame stands after the tag. -/
theorem beWord_length_of_requestFrame {m : Memory} {tag : Tag} {ws : List Word} (h : m.Holds 0 (requestFrame tag ws)) :
    m.beWord 4 = BitVec.ofNat 32 (4 * ws.length) := by
  rw [requestFrame, stamped, List.append_assoc, List.append_assoc] at h
  have hlength := beWord_of_holds h
  rwa [tagBytes_length] at hlength

/-- `FRM.VERIFY` succeeds on a request frame that fits the buffer. -/
theorem frmVerify_of_requestFrame {s : State} {tag : Tag} {ws : List Word} (h : s.fb.Holds 0 (requestFrame tag ws))
    (hcap : 12 + 4 * ws.length ≤ 65536) :
    ∃ t, exec (.frmVerify (BitVec.ofNat 32 (12 + 4 * ws.length))) s = .next t ∧ t.status = .success := by
  have htotal : (BitVec.ofNat 32 (12 + 4 * ws.length)).toNat = 12 + 4 * ws.length := by
    rw [BitVec.toNat_ofNat]
    omega
  have hlen := requestFrame_length tag ws
  rw [requestFrame, stamped_length] at hlen
  apply frmVerify_of_stamped h
  · omega
  · omega
  · omega

/-- Each of the seven instructions is a build, of at most two payload words (R202 to R208). -/
theorem exec_eq_build (s : State) {a b : Word} {i : Instr}
    (hi : i ∈ [Instr.cmdGver, .cmdGprm a, .cmdSprm a b, .cmdGpin a, .cmdScan a, .cmdGscn a, .cmdGsc2 a b]) :
    ∃ x ws, exec i s = .next (s.build x ws) ∧ ws.length ≤ 2 := by
  simp only [List.mem_cons, List.not_mem_nil, or_false] at hi
  obtain rfl | rfl | rfl | rfl | rfl | rfl | rfl := hi
  · exact ⟨.gver, [], rfl, by simp⟩
  · exact ⟨.gprm, [a], rfl, by simp⟩
  · exact ⟨.sprm, [a, b], rfl, by simp⟩
  · exact ⟨.gpin, [a], rfl, by simp⟩
  · exact ⟨.scan, [a], rfl, by simp⟩
  · exact ⟨.gscn, [a], rfl, by simp⟩
  · exact ⟨.gsc2, [a, b], rfl, by simp⟩

/-- Settles O21: a build leaves the request frame of its class in the buffer, and its result is that frame's length. -/
theorem builtRequestsVerify : Obligations.BuiltRequestsVerify := by
  intro s a b i hi
  obtain ⟨x, ws, hexec, hws⟩ := exec_eq_build s hi
  have hframe : (s.build x ws).fb.Holds 0 (requestFrame (classTag x) ws) := Memory.holds_writeBytes _ _ _
  obtain ⟨u, hverify, hstatus⟩ := frmVerify_of_requestFrame hframe (by omega)
  refine ⟨s.build x ws, u, hexec, ?length, hverify, hstatus⟩
  case length =>
    rw [beWord_length_of_requestFrame hframe, State.build_res0, Nat.add_comm, BitVec.ofNat_add, BitVec.add_sub_cancel]

end Sys2Proof.Proofs.Frames
end

section
/-! SUPPORT. The two decoders (R90): operation words by code (R108 to R111), frames by tag (R91, R92, R106); the delivery of a
received byte string of any length (R113; log entry 2); and the five statements about them. -/

namespace Sys2Proof.Proofs.Encoding

open Sys2Proof Sys2Proof.Machine

/-! ### Operation words (R108 to R110) -/

/-- The decoder reads three fields of an operation word: the code and two operands. -/
theorem decode_op_of_code {w : OpWord} {opc : Byte} (hopc : w.extractLsb' 0 8 = opc) :
    decode (.op w) = opOfFields opc (w.extractLsb' 8 32) (w.extractLsb' 40 32) := by
  rw [← hopc]
  rfl

/-- The word of a code and two operands decodes by them. -/
theorem decode_opWord (opc : Byte) (a0 a1 : Word) : decode (.op (opWord opc a0 a1)) = opOfFields opc a0 a1 := by
  rw [decode, decodeOp, opcField_opWord, a0Field_opWord, a1Field_opWord]

/-- Settles O52: each code selects its row of `opOfFields`, which keeps the operands the row's format uses. -/
theorem operationWordsDecodeByCode : Obligations.OperationWordsDecodeByCode := by
  intro w
  and_intros <;> exact decode_op_of_code

/-! ### Reserved codes (R111) -/

/-- The 36 operation codes of R110. -/
def operationCodes : List Byte :=
  [0x00#8, 0x01#8, 0x02#8, 0x03#8, 0x04#8, 0x08#8, 0x09#8, 0x0A#8, 0x0B#8, 0x10#8, 0x11#8, 0x12#8, 0x13#8,
    0x20#8, 0x21#8, 0x22#8, 0x23#8, 0x24#8, 0x25#8, 0x26#8, 0x28#8, 0x29#8, 0x2A#8, 0x2B#8, 0x30#8, 0x31#8, 0x32#8,
    0x33#8, 0x34#8, 0x35#8, 0x40#8, 0x41#8, 0x42#8, 0xF0#8, 0xF1#8, 0xF2#8]

/-- A code R110 does not list names no operation: every row of `opOfFields` but the last is that of a listed code. -/
theorem opOfFields_of_reserved {opc : Byte} (hopc : opc ∉ operationCodes) (a0 a1 : Word) :
    opOfFields opc a0 a1 = .error (.unknownOpcode opc) := by
  have hne (c : Nat) (hc : BitVec.ofNat 8 c ∈ operationCodes) : opc.toNat ≠ c := by
    rintro rfl
    rw [BitVec.ofNat_toNat, BitVec.setWidth_eq] at hc
    exact hopc hc
  unfold opOfFields
  split
  case h_37 => rfl
  all_goals exact absurd ‹opc.toNat = _› (hne _ (by decide))

/-- Settles O53: the decoder rejects the word, and a rejected word fails with `UnknownCommand`. -/
theorem reservedCodesEndWithUnknownCommand : Obligations.ReservedCodesEndWithUnknownCommand := by
  intro s w rest hport hopc
  have hdecode : decode (.op w) = .error (.unknownOpcode (opcField w)) := opOfFields_of_reserved hopc _ _
  rw [Step.step_of_decode_error hport hdecode]
  rfl

/-! ### The eight frame rows (R91, R92) -/

/-- The eight tags of R92. -/
def allTags : List Tag := [.gver, .gprm, .sprm, .gpin, .scan, .gscn, .gsc2, .err]

theorem mem_allTags (t : Tag) : t ∈ allTags := by
  cases t <;> decide

section FrameRows

variable (t : Tag) (length : Word) (payload : List Byte) (crc : Word)

theorem wf_frameOfFields : (frameOfFields t length payload crc).wf = frameFits payload := by
  cases t <;> rfl

/-- To run a frame row is to deliver its frame (log entry 2). -/
theorem exec_frameOfFields (s : State) :
    exec (frameOfFields t length payload crc) s = .next (deliver 0 (frameBytes t length payload crc) s) := by
  cases t <;> rfl

/-- The Length field stands after the tag (R91). -/
theorem beAt_length_frameBytes : beAt (frameBytes t length payload crc) 4 = length := by
  have h := beAt_append_be32 (tagBytes t) length (payload ++ be32 crc)
  rwa [tagBytes_length, ← List.append_assoc, ← List.append_assoc] at h

/-- The payload stands between the header and the trailer (R91). -/
theorem payload_frameBytes : ((frameBytes t length payload crc).drop 8).take payload.length = payload := by
  have hheader : (tagBytes t ++ be32 length).length = 8 := by simp
  rw [frameBytes, List.append_assoc, List.drop_left' hheader, List.take_left]

/-- The trailer is the last word of the frame (R91). -/
theorem beAt_crc_frameBytes : beAt (frameBytes t length payload crc) (8 + payload.length) = crc := by
  have h := beAt_append_be32 (tagBytes t ++ be32 length ++ payload) crc []
  rwa [List.append_nil, List.length_append, List.length_append, tagBytes_length, be32_length] at h

/-- The bytes of a frame that fits the buffer decode to its row: every field is found where `frameBytes` put it. -/
theorem decode_frameBytes (hfits : frameFits payload = true) :
    decode (.frame (frameBytes t length payload crc)) = .ok (frameOfFields t length payload crc) := by
  have hcap : 12 + payload.length ≤ Config.fbCap := of_decide_eq_true hfits
  have hpayload : 12 + payload.length - 12 = payload.length := by omega
  have htrailer : 12 + payload.length - 4 = 8 + payload.length := by omega
  rw [decode, decodeFrame, frameBytes_length, if_neg (by omega), if_neg (by omega), tagOf_frameBytes, hpayload, htrailer,
    beAt_length_frameBytes, payload_frameBytes, beAt_crc_frameBytes]

end FrameRows

/-! ### Encoding and decoding (R108 to R110, R91) -/

/-- Settles O50: an operation by the fields of its word, a frame row by the parts of its byte string. -/
theorem decodeEncodeGivesTheInstruction : Obligations.DecodeEncodeGivesTheInstruction := by
  intro i hwf
  cases i with
  | tagGver => exact decode_frameBytes .gver _ _ _ hwf
  | tagGprm => exact decode_frameBytes .gprm _ _ _ hwf
  | tagSprm => exact decode_frameBytes .sprm _ _ _ hwf
  | tagGpin => exact decode_frameBytes .gpin _ _ _ hwf
  | tagScan => exact decode_frameBytes .scan _ _ _ hwf
  | tagGscn => exact decode_frameBytes .gscn _ _ _ hwf
  | tagGsc2 => exact decode_frameBytes .gsc2 _ _ _ hwf
  | tagErr => exact decode_frameBytes .err _ _ _ hwf
  | _ => exact decode_opWord _ _ _

/-- Settles O51: each request written out is the encoding of the instruction it stands for, which decodes back. -/
theorem tableWordsDecode : Obligations.TableWordsDecode := by
  refine ⟨?crcCompute, ?bufWr, ?cmdSprm, ?scnGetw, ?rlyOut, ?sysCfg, ?tagGver⟩
  case crcCompute => exact decodeEncodeGivesTheInstruction (.crcCompute 10#32 9#32) rfl
  case bufWr => exact decodeEncodeGivesTheInstruction (.bufWr 3#32 0x52#32) rfl
  case cmdSprm => exact decodeEncodeGivesTheInstruction (.cmdSprm 5#32 100#32) rfl
  case scnGetw => exact decodeEncodeGivesTheInstruction (.scnGetw 2#32 1#32) rfl
  case rlyOut => exact decodeEncodeGivesTheInstruction (.rlyOut 20#32) rfl
  case sysCfg => exact decodeEncodeGivesTheInstruction (.sysCfg 0xFFFFFFFF#32) rfl
  case tagGver => exact decodeEncodeGivesTheInstruction (.tagGver 0#32 [] 0x1B39CF64#32) rfl

/-! ### Byte strings that are no frame (R62, R106, R409) -/

/-- The decoder rejects a byte string that is too short, begins with none of the eight tags, or is longer than the buffer. -/
theorem decode_frame_rejected {l : List Byte}
    (hl : l.length < 12 ∨ l.take 4 ∉ allTags.map tagBytes ∨ 65536 < l.length) : ∃ e, decode (.frame l) = .error e := by
  rw [decode, decodeFrame]
  by_cases hshort : l.length < 12
  · exact ⟨_, if_pos hshort⟩
  rw [if_neg hshort]
  by_cases hlong : Config.fbCap < l.length
  · exact ⟨_, if_pos hlong⟩
  rw [if_neg hlong]
  have htake : l.take 4 ∉ allTags.map tagBytes := (hl.resolve_left hshort).resolve_right hlong
  have htag : tagOf l = none := Option.eq_none_iff_forall_ne_some.2 fun t ht =>
    htake (List.mem_map.2 ⟨t, mem_allTags t, (tagOf_eq_some.1 ht).symm⟩)
  rw [htag]
  exact ⟨_, rfl⟩

/-- Such a byte string is delivered into the buffer like any other (R7, R106). -/
theorem step_of_rejected_frame {s : State} {l : List Byte} {rest : List HostRequest} (hport : s.port = .frame l :: rest)
    (hl : l.length < 12 ∨ l.take 4 ∉ allTags.map tagBytes ∨ 65536 < l.length) :
    step s = .next (deliver 0 l { s with port := rest }) := by
  obtain ⟨e, hdecode⟩ := decode_frame_rejected hl
  exact Step.step_of_decode_error hport hdecode

/-! ### The delivery of a byte string of any length (R113, R162) -/

theorem deliver_append (a b : List Byte) (off : Nat) (s : State) :
    deliver off (a ++ b) s = deliver (off + a.length) b (deliver off a s) := by
  induction a generalizing off s with
  | nil => rfl
  | cons c a ih => rw [List.cons_append, deliver_cons, ih, deliver_cons, List.length_cons, Nat.add_assoc, Nat.add_comm 1]

/-- Past the buffer's end every byte fails, as its own `BUF.WR` would (R61). -/
theorem deliver_past (l : List Byte) (off : Nat) (s : State) (hl : l ≠ []) (hoff : 65536 ≤ off) :
    deliver off l s = s.raise .invalidParameter 0#32 := by
  induction l generalizing off s with
  | nil => exact absurd rfl hl
  | cons b l ih =>
    rw [deliver_cons, bufWrite_outside s b hoff]
    by_cases hrest : l = []
    · rw [hrest, deliver_nil]
    · rw [ih _ _ hrest (by omega)]
      rfl

/-- Of a byte string longer than the buffer the bytes that fit are written, and the last one fails. -/
theorem deliver_overflow (l : List Byte) (s : State) (hl : 65536 < l.length) :
    deliver 0 l s = { s with fb := s.fb.writeBytes 0 (l.take 65536) }.raise .invalidParameter 0#32 := by
  have hlen : (l.take 65536).length = 65536 := List.length_take_of_le (by omega)
  have hfit : l.take 65536 ≠ [] := List.ne_nil_of_length_pos (by omega)
  have hrest : l.drop 65536 ≠ [] := List.ne_nil_of_length_pos (by rw [List.length_drop]; omega)
  calc deliver 0 l s
      = deliver (0 + (l.take 65536).length) (l.drop 65536) (deliver 0 (l.take 65536) s) := by
        rw [← deliver_append, List.take_append_drop]
    _ = (deliver 0 (l.take 65536) s).raise .invalidParameter 0#32 := deliver_past _ _ _ hrest (by omega)
    _ = _ := by
        rw [deliver_fits _ _ _ hfit (by omega)]
        rfl

/-- A delivery from the start of the buffer writes the bytes that fit; the response is that of the last byte, if there is one. -/
theorem deliver_zero (l : List Byte) (s : State) :
    deliver 0 l s =
      { s with
        fb := s.fb.writeBytes 0 (l.take 65536)
        res0 := if l = [] then s.res0 else 0#32
        res1 := if l = [] then s.res1 else 0#32
        status := if l = [] then s.status else if l.length ≤ 65536 then .success else .invalidParameter } := by
  by_cases hl : l = []
  · subst hl
    rfl
  rw [if_neg hl, if_neg hl, if_neg hl]
  by_cases hcap : l.length ≤ 65536
  · rw [if_pos hcap, List.take_of_length_le hcap, deliver_fits l 0 s hl (by omega)]
    rfl
  · rw [if_neg hcap, deliver_overflow l s (by omega)]
    rfl

/-- Settles O49: a rejected byte string by `deliver_zero`, a frame row as the delivery of its bytes, which fit. -/
theorem framesAreDeliveredByTag : Obligations.FramesAreDeliveredByTag := by
  refine ⟨?rejected, ?row⟩
  case rejected =>
    intro s l rest hport hl
    refine ⟨_, step_of_rejected_frame hport hl, ?_⟩
    rw [deliver_zero]
    exact ⟨Memory.holds_writeBytes _ _ _,
      Memory.sameOutside_writeBytes _ _ _ (by rw [List.length_take, Nat.min_comm]), rfl⟩
  case row =>
    intro s n crc payload i tag hwf hi
    have hrow : (i, tag) ∈ allTags.map fun t => (frameOfFields t n payload crc, tagBytes t) := hi
    obtain ⟨t, -, heq⟩ := List.mem_map.1 hrow
    obtain ⟨rfl, rfl⟩ := Prod.mk.inj heq
    rw [WellFormed, wf_frameOfFields] at hwf
    have hcap : 12 + payload.length ≤ 65536 := of_decide_eq_true hwf
    have hlen := frameBytes_length t n payload crc
    have hne : frameBytes t n payload crc ≠ [] := List.ne_nil_of_length_pos (by omega)
    refine ⟨_, exec_frameOfFields t n payload crc s, ?_⟩
    rw [deliver_fits _ _ _ hne (by omega)]
    exact ⟨Memory.holds_writeBytes _ _ _, Memory.sameOutside_writeBytes _ _ _ hlen, rfl⟩

end Sys2Proof.Proofs.Encoding
end

section
/-! SUPPORT. The CRC unit: the register form of R131 against the bit-serial form of R130, the two properties of R138, the four
operations as whole next states (R133 to R136), and the eight statements about them. -/

namespace Sys2Proof.Proofs.CrcUnit

open Sys2Proof Sys2Proof.Machine

/-! ### Reflection of a bit vector (R130) -/

theorem reverse_xor {w : Nat} (x y : BitVec w) : (x ^^^ y).reverse = x.reverse ^^^ y.reverse := by
  apply BitVec.eq_of_getLsbD_eq
  intro i hi
  simp only [BitVec.getLsbD_xor, BitVec.getLsbD_reverse, BitVec.getMsbD_xor]

/-- Reflection turns a left shift into a right shift. -/
theorem reverse_shiftLeft {w : Nat} (x : BitVec w) (n : Nat) : (x <<< n).reverse = x.reverse >>> n := by
  apply BitVec.eq_of_getLsbD_eq
  intro i hi
  simp only [BitVec.getLsbD_ushiftRight, BitVec.getLsbD_reverse, BitVec.getMsbD_shiftLeft, Nat.add_comm n i]

/-- A reflected byte, shifted to the top of the register, is the byte itself in the reflected register. -/
theorem reverse_reflectedByte (b : Byte) : (b.reverse.setWidth 32 <<< 24).reverse = (b.setWidth 32 : Word) := by
  rw [reverse_shiftLeft]
  apply BitVec.eq_of_getLsbD_eq
  intro i hi
  simp only [BitVec.getLsbD_ushiftRight, BitVec.getLsbD_setWidth, BitVec.getLsbD_reverse, BitVec.getMsbD_eq_getLsbD]
  by_cases hbyte : i < 8
  case pos =>
    have hpos : 8 - 1 - (32 - 1 - (24 + i)) = i := by omega
    have hreg : 24 + i < 32 := by omega
    have hsrc : 32 - 1 - (24 + i) < 8 := by omega
    have hlow : 32 - 1 - (24 + i) < 32 := by omega
    simp only [hpos, hi, hreg, hsrc, hlow, decide_true, Bool.true_and]
  case neg =>
    have hreg : ¬ 24 + i < 32 := by omega
    simp [hreg, BitVec.getLsbD_of_ge b i (Nat.le_of_not_lt hbyte)]

/-! ### The two forms of the CRC agree (R131) -/

/-- One bit of the most-significant-bit-first register is one shift of its reflection. -/
theorem reverse_crcBit (reg : Word) : (crcBit reg).reverse = crcShift reg.reverse := by
  have hpoly : Config.crcPoly.reverse = Config.crcPolyReflected := by decide +kernel
  have htop : reg.reverse.getLsbD 0 = reg.getLsbD 31 := by
    rw [BitVec.getLsbD_reverse, BitVec.getMsbD_eq_getLsbD]
    simp
  rw [crcBit, crcShift, htop]
  split
  · rw [reverse_xor, reverse_shiftLeft, hpoly]
  · rw [reverse_shiftLeft]

/-- One byte of the most-significant-bit-first register is the table step on its reflection. -/
theorem reverse_crcByteMsb (reg : Word) (b : Byte) : (crcByteMsb reg b).reverse = crcStep reg.reverse b := by
  rw [crcStep_eq, crcByteMsb, crcShift8]
  simp only [reverse_crcBit, reverse_xor, reverse_reflectedByte]

/-- The two registers stay reflections of each other over a byte sequence. -/
theorem crcFeed_reverse (reg : Word) (l : List Byte) : crcFeed reg.reverse l = (l.foldl crcByteMsb reg).reverse := by
  induction l generalizing reg with
  | nil => rfl
  | cons b l ih => rw [crcFeed_cons, ← reverse_crcByteMsb, ih, List.foldl_cons]

theorem crcFeed_init (l : List Byte) : crcFeed Config.crcInit l = (l.foldl crcByteMsb Config.crcInit).reverse := by
  have hinit : Config.crcInit.reverse = Config.crcInit := by decide +kernel
  rw [← crcFeed_reverse, hinit]

theorem crc32_eq_crc32Msb (l : List Byte) : crc32 l = crc32Msb l := by
  rw [crc32, crc32Msb, crcFeed_init]

/-- Settles O8: the registers start as reflections of each other and each byte keeps them so. -/
theorem registerFormAgreesWithBitForm : Obligations.RegisterFormAgreesWithBitForm :=
  fun l => ⟨crcFeed_init l, crc32_eq_crc32Msb l⟩

/-! ### The properties of R138 -/

/-- Settles O9: the register form is evaluated on the nine digits and the bit-serial form agrees with it. -/
theorem crcCheckValues : Obligations.CrcCheckValues := by
  have hdigits : crc32 [0x31#8, 0x32#8, 0x33#8, 0x34#8, 0x35#8, 0x36#8, 0x37#8, 0x38#8, 0x39#8] = 0xCBF43926#32 := by
    decide +kernel
  refine ⟨?bits, hdigits, ?empty⟩
  case bits => rw [← crc32_eq_crc32Msb, hdigits]
  case empty => decide

theorem invertedBit_ne (b : Byte) {j : Nat} (hj : j < 8) : b ^^^ (1#8 <<< j) ≠ b := by
  intro h
  have hbit : (b ^^^ (1#8 <<< j)).getLsbD j = b.getLsbD j := by rw [h]
  simp [hj] at hbit

/-- The CRC tells apart two sequences that differ in one byte. -/
theorem crc32_injective_byte {p q : List Byte} {b c : Byte} (h : crc32 (p ++ b :: q) = crc32 (p ++ c :: q)) : b = c := by
  have hfeed := (BitVec.xor_left_inj _).1 h
  rw [crcFeed_append, crcFeed_append, crcFeed_cons, crcFeed_cons] at hfeed
  exact crcStep_injective_byte (crcFeed_injective q hfeed)

/-- Settles O10: every step of the register is one to one in the byte and in the register, so the difference that the inverted
bit makes is never lost again. -/
theorem oneInvertedBitChangesTheCrc : Obligations.OneInvertedBitChangesTheCrc := by
  intro l k j hk hj heq
  have hsplit : l = l.take k ++ l[k] :: l.drop (k + 1) := by
    rw [← List.drop_eq_getElem_cons hk, List.take_append_drop]
  rw [List.set_eq_take_append_cons_drop, if_pos hk] at heq
  have hbyte := crc32_injective_byte (heq.trans (congrArg crc32 hsplit))
  exact invertedBit_ne l[k] hj hbyte

/-! ### The operations as whole next states (R133 to R136) -/

theorem exec_crcReset (s : State) :
    exec .crcReset s = .next ({ s with crcR := Config.crcInit }.succeed Config.crcInit 0#32) := rfl

theorem exec_crcFinal (s : State) :
    exec .crcFinal s = .next (s.drawCrc.succeed (s.crcR ^^^ Config.crcXorOut) 0#32) := rfl

section Ranges

variable (s : State) {off len : Word}

/-- `CRC.UPDATE` of a range inside the buffer (R134). -/
theorem exec_crcUpdate_inside (h : off.toNat + len.toNat ≤ 65536) :
    exec (.crcUpdate off len) s = .next ({ s with crcR := crcFeed s.crcR (s.fb.bytes off.toNat len.toNat) }.succeed
      (crcFeed s.crcR (s.fb.bytes off.toNat len.toNat)) 0#32) :=
  if_pos ((inBuffer_iff _ _).2 h)

/-- `CRC.UPDATE` of a range that leaves the buffer (R61, R134). -/
theorem exec_crcUpdate_outside (h : 65536 < off.toNat + len.toNat) :
    exec (.crcUpdate off len) s = .next (s.raise .invalidParameter 0#32) :=
  if_neg fun hin => absurd ((inBuffer_iff _ _).1 hin) (Nat.not_le.2 h)

/-- `CRC.COMPUTE` of a range inside the buffer (R136). -/
theorem exec_crcCompute_inside (h : off.toNat + len.toNat ≤ 65536) :
    exec (.crcCompute off len) s = .next (s.drawCrc.succeed
      (if len = 0#32 then 0#32 else crc32 (s.fb.bytes off.toNat len.toNat)) 0#32) :=
  if_pos ((inBuffer_iff _ _).2 h)

/-- `CRC.COMPUTE` of a range that leaves the buffer (R61, R136). -/
theorem exec_crcCompute_outside (h : 65536 < off.toNat + len.toNat) :
    exec (.crcCompute off len) s = .next (s.raise .invalidParameter 0#32) :=
  if_neg fun hin => absurd ((inBuffer_iff _ _).1 hin) (Nat.not_le.2 h)

end Ranges

/-- A range of a store, byte by byte from its first offset. -/
theorem bytes_eq_map_range (m : Memory) (a n : Nat) : m.bytes a n = (List.range n).map fun k => m.read (a + k) := by
  rw [Memory.bytes, List.range'_eq_map_range, List.map_map]
  rfl

/-- The table step with the index masked as R131 writes it. -/
theorem crcStep_eq_masked (r : Word) (b : Byte) :
    crcStep r b = crcTable (((r ^^^ b.setWidth 32) &&& 0xFF#32).setWidth 8) ^^^ (r >>> 8) := by
  have hmask (x : Word) : (x &&& 0xFF#32).setWidth 8 = x.setWidth 8 := by
    rw [BitVec.setWidth_and]
    exact BitVec.and_allOnes
  rw [crcStep, hmask]

/-- Feeding a range of a store is the loop of R134 over its offsets. -/
theorem crcFeed_bytes (r : Word) (m : Memory) (a n : Nat) :
    crcFeed r (m.bytes a n) = (List.range n).foldl
      (fun c k => crcTable (((c ^^^ (m.read (a + k)).setWidth 32) &&& 0xFF#32).setWidth 8) ^^^ (c >>> 8)) r := by
  rw [bytes_eq_map_range, crcFeed, List.foldl_map]
  simp only [crcStep_eq_masked]

/-- Settles O4: the reset register is the initial remainder, and is the response too. -/
theorem crcResetStartsANewCrc : Obligations.CrcResetStartsANewCrc := exec_crcReset

/-- Settles O5: the range is fed byte by byte, and the capacity check decides between the two clauses. -/
theorem crcUpdateFeedsTheRange : Obligations.CrcUpdateFeedsTheRange := by
  intro s off len
  refine ⟨?inside, ?outside⟩
  case inside => exact fun h => ⟨_, crcFeed_bytes s.crcR s.fb off.toNat len.toNat, exec_crcUpdate_inside s h⟩
  case outside => exact exec_crcUpdate_outside s

/-- Settles O6: the finished value is read before the register is drawn afresh. -/
theorem crcFinalReturnsTheFinishedCrc : Obligations.CrcFinalReturnsTheFinishedCrc :=
  fun s => ⟨_, exec_crcFinal s, rfl⟩

/-- Settles O7: the unit computes the register form, which agrees with the bit-serial form of R130. -/
theorem crcComputeReturnsTheBitSerialCrc : Obligations.CrcComputeReturnsTheBitSerialCrc := by
  intro s off len
  refine ⟨?inside, ?outside⟩
  case inside =>
    intro h
    refine ⟨_, exec_crcCompute_inside s h, ?_⟩
    rw [← bytes_eq_map_range, ← crc32_eq_crc32Msb]
    rfl
  case outside => exact exec_crcCompute_outside s

/-- Settles O11: feeding two adjacent ranges is feeding their union, and the second offset, inside the buffer, does not wrap. -/
theorem streamedCrcIsTheCrcOfTheUnion : Obligations.StreamedCrcIsTheCrcOfTheUnion := by
  intro s off n k h
  have hsum : (off + n).toNat = off.toNat + n.toNat := BitVec.toNat_add_of_lt (by omega)
  refine ⟨_, _, _, _, exec_crcReset s, exec_crcUpdate_inside _ (by omega), exec_crcUpdate_inside _ (by omega),
    exec_crcFinal _, ?union, rfl⟩
  case union =>
    rw [← crc32_eq_crc32Msb, Memory.bytes_add, crc32, crcFeed_append, ← hsum]
    rfl

end Sys2Proof.Proofs.CrcUnit
end

section
/-! SUPPORT. The frame codec (R161 to R172): what each of its eight operations does inside the buffer and past it, the trailer a
frame matches (R167, R169), the conversion done twice (R172), and the eight statements about them. -/

namespace Sys2Proof.Proofs.FrameCodec

open Sys2Proof Sys2Proof.Machine Sys2Proof.Proofs.CrcUnit

/-! ### The operand checks (R61, R165) -/

section Checks

variable (s : State) (r : Result)

/-- An operation that tests its range runs where the range is inside the buffer (R61). -/
theorem next_of_inside {off width : Nat} (h : off + width ≤ 65536) :
    (if inBuffer off width then r else .next (s.raise .invalidParameter 0#32)) = r :=
  if_pos ((inBuffer_iff _ _).2 h)

/-- An operation that tests its range fails where the range leaves the buffer (R61). -/
theorem raise_of_outside {off width : Nat} (h : 65536 < off + width) :
    (if inBuffer off width then r else .next (s.raise .invalidParameter 0#32)) = .next (s.raise .invalidParameter 0#32) :=
  if_neg fun hin => absurd ((inBuffer_iff _ _).1 hin) (Nat.not_le.2 h)

/-- An operation that tests a frame length runs on a length that leaves room for the trailer and fits the buffer (R165). -/
theorem next_of_frameLength {total : Nat} (h : 4 < total ∧ total ≤ 65536) :
    (if frameLengthOk total then r else .next (s.raiseLength total)) = r :=
  if_pos ((frameLengthOk_iff _).2 h)

/-- An operation that tests a frame length fails on any other length (R165). -/
theorem raiseLength_of_badFrame {total : Nat} (h : ¬(4 < total ∧ total ≤ 65536)) :
    (if frameLengthOk total then r else .next (s.raiseLength total)) = .next (s.raiseLength total) :=
  if_neg fun hok => h ((frameLengthOk_iff _).1 hok)

/-- A frame of no more than its trailer is a failure that draws `CRC.R` (R137, R165). -/
theorem raise_of_shortFrame {total : Nat} (h : total ≤ 4) :
    (if frameLengthOk total then r else .next (s.raiseLength total)) =
      .next (s.drawCrc.raise .invalidParameter 0#32) := by
  rw [raiseLength_of_badFrame s r (by omega), s.raiseLength_small (by omega)]

/-- A frame past the buffer is a failure that touches nothing (R61, R165). -/
theorem raise_of_longFrame {total : Nat} (h : 65536 < total) :
    (if frameLengthOk total then r else .next (s.raiseLength total)) = .next (s.raise .invalidParameter 0#32) := by
  rw [raiseLength_of_badFrame s r (by omega), s.raiseLength_past h]

end Checks

/-! ### `FRM.STAMP` and `FRM.VERIFY` as whole next states (R166, R168) -/

section Frames

variable (s : State) {total : Word}

theorem exec_frmStamp_inside (h : 4 < total.toNat ∧ total.toNat ≤ 65536) :
    exec (.frmStamp total) s =
      .next ({ s.drawCrc with
        fb := s.fb.writeBytes (total.toNat - 4) (be32 (crc32 (s.fb.bytes 0 (total.toNat - 4)))) }.succeed
          (crc32 (s.fb.bytes 0 (total.toNat - 4))) 0#32) :=
  next_of_frameLength s _ h

theorem exec_frmVerify_inside (h : 4 < total.toNat ∧ total.toNat ≤ 65536) :
    exec (.frmVerify total) s =
      .next (s.drawCrc.finish
        (if crc32 (s.fb.bytes 0 (total.toNat - 4)) = s.fb.beWord (total.toNat - 4) then .success else .crcError)
        (crc32 (s.fb.bytes 0 (total.toNat - 4))) (s.fb.beWord (total.toNat - 4))) :=
  next_of_frameLength s _ h

end Frames

/-- Settles O14: the stamp writes one word, so its four bytes hold it and the rest reads as before. -/
theorem stampWritesTheTrailer : Obligations.StampWritesTheTrailer := by
  intro s total
  refine ⟨?inside, ?short, ?past⟩
  case inside =>
    intro h
    exact ⟨_, _, exec_frmStamp_inside s h, crc32_eq_crc32Msb _, Memory.holds_writeBytes _ _ _,
      Memory.sameOutside_writeBytes _ _ _ (be32_length _), rfl⟩
  case short => exact fun h => ⟨_, raise_of_shortFrame s _ h, rfl⟩
  case past => exact raise_of_longFrame s _

/-- Settles O15: the trailer is the word whose network-order bytes are the last four. -/
theorem verifyComparesTheTrailer : Obligations.VerifyComparesTheTrailer := by
  intro s total
  refine ⟨?inside, ?short, ?past⟩
  case inside =>
    intro h
    exact ⟨_, _, _, exec_frmVerify_inside s h, crc32_eq_crc32Msb _, s.fb.be32_beWord _, rfl⟩
  case short => exact fun h => ⟨_, raise_of_shortFrame s _ h, rfl⟩
  case past => exact raise_of_longFrame s _

/-! ### The trailer of a frame (R167) -/

/-- `BE32(FB, total-4) = CRC32(FB[0..total-4))`, as R167 writes it. -/
def TrailerMatches (m : Memory) (total : Nat) : Prop :=
  m.beWord (total - 4) = crc32 (m.bytes 0 (total - 4))

/-- A store whose last word was just written with the CRC of the bytes before it. -/
theorem trailerMatches_of_stamp (m : Memory) (total : Nat) :
    TrailerMatches (m.writeBytes (total - 4) (be32 (crc32 (m.bytes 0 (total - 4))))) total := by
  have hbody := m.bytes_writeBytes_disjoint (total - 4) (be32 (crc32 (m.bytes 0 (total - 4)))) (b := 0) (n := total - 4)
    (.inl (by omega))
  rw [TrailerMatches, Memory.beWord_writeBytes_be32, hbody]

/-- `FRM.VERIFY` succeeds only on a frame of a good length whose trailer matches (R165, R168). -/
theorem trailerMatches_of_frmVerify {s t : State} {total : Word} (hexec : exec (.frmVerify total) s = .next t)
    (hstatus : t.status = .success) :
    (4 < total.toNat ∧ total.toNat ≤ 65536) ∧ TrailerMatches s.fb total.toNat := by
  by_cases hlen : 4 < total.toNat ∧ total.toNat ≤ 65536
  case pos =>
    rw [exec_frmVerify_inside s hlen] at hexec
    cases hexec
    refine ⟨hlen, Eq.symm (Decidable.by_contra fun hne => ?_)⟩
    rw [State.finish_status, if_neg hne] at hstatus
    cases hstatus
  case neg =>
    have hraise : exec (.frmVerify total) s = .next (s.raiseLength total.toNat) := raiseLength_of_badFrame s _ hlen
    rw [hraise] at hexec
    cases hexec
    cases hstatus

/-- Settles O16: the stamp makes the trailer match, and `FRM.VERIFY` compares nothing else. -/
theorem verifyAfterStampSucceeds : Obligations.VerifyAfterStampSucceeds := by
  intro s total hshort hcap
  have hmatch := trailerMatches_of_stamp s.fb total.toNat
  exact ⟨_, _, exec_frmStamp_inside s ⟨hshort, hcap⟩, rfl, hmatch.trans (crc32_eq_crc32Msb _),
    exec_frmVerify_inside _ ⟨hshort, hcap⟩, if_pos hmatch.symm, hmatch.symm⟩

/-! ### One inverted bit of a frame (R169) -/

/-- The store with bit `j` of the byte at `k` inverted. -/
def invertBit (m : Memory) (k j : Nat) : Memory := m.write k (m.read k ^^^ (1#8 <<< j))

/-- A range that the byte stands in reads as before but for the one bit. -/
theorem bytes_invertBit_inside (m : Memory) {a n k : Nat} (j : Nat) (hk : k < (m.bytes a n).length) :
    (invertBit m (a + k) j).bytes a n = (m.bytes a n).set k ((m.bytes a n)[k] ^^^ (1#8 <<< j)) := by
  apply List.ext_getElem (by simp)
  intro i hi hi'
  simp only [Memory.getElem_bytes, List.getElem_set, invertBit]
  split
  case isTrue hki => rw [← hki, Memory.read_write_same]
  case isFalse hki => exact Memory.read_write_other _ _ (by omega)

theorem bytes_invertBit_outside (m : Memory) {a n k : Nat} (j : Nat) (hk : ¬(a ≤ k ∧ k < a + n)) :
    (invertBit m k j).bytes a n = m.bytes a n :=
  Memory.bytes_congr fun x _ _ => m.read_write_other _ (by omega)

/-- A bit inverted in the protected bytes changes their CRC (R138). -/
theorem crc32_invertBit_ne (m : Memory) {n k j : Nat} (hk : k < n) (hj : j < 8) :
    crc32 ((invertBit m k j).bytes 0 n) ≠ crc32 (m.bytes 0 n) := by
  have hlen : k < (m.bytes 0 n).length := by rwa [Memory.bytes_length]
  have hset := bytes_invertBit_inside m j hlen
  rw [Nat.zero_add] at hset
  rw [hset]
  exact oneInvertedBitChangesTheCrc _ k j hlen hj

/-- A bit inverted in the trailer changes the word it reads as. -/
theorem beWord_invertBit_ne (m : Memory) {a k j : Nat} (hk : k < 4) (hj : j < 8) :
    (invertBit m (a + k) j).beWord a ≠ m.beWord a := by
  intro hword
  have hbytes : (invertBit m (a + k) j).bytes a 4 = m.bytes a 4 := by rw [← Memory.be32_beWord, hword, Memory.be32_beWord]
  have hbyte : (invertBit m (a + k) j).read (a + k) = m.read (a + k) := by
    have hget := List.getElem_of_eq hbytes (i := k) (by rwa [Memory.bytes_length])
    rwa [Memory.getElem_bytes, Memory.getElem_bytes] at hget
  rw [invertBit, Memory.read_write_same] at hbyte
  exact invertedBit_ne _ hj hbyte

theorem beWord_invertBit_outside (m : Memory) {a k : Nat} (j : Nat) (hk : ¬(a ≤ k ∧ k < a + 4)) :
    (invertBit m k j).beWord a = m.beWord a := by
  apply be32_injective
  rw [Memory.be32_beWord, Memory.be32_beWord, bytes_invertBit_outside m j hk]

/-- The bit stands on one side of the comparison only: the other side keeps its value. -/
theorem not_trailerMatches_invertBit {m : Memory} {total k j : Nat} (h : TrailerMatches m total) (hk : k < total)
    (hj : j < 8) : ¬ TrailerMatches (invertBit m k j) total := by
  intro h'
  rw [TrailerMatches] at h h'
  by_cases hpart : k < total - 4
  case pos =>
    rw [beWord_invertBit_outside m j (by omega), h] at h'
    exact crc32_invertBit_ne m hpart hj h'.symm
  case neg =>
    obtain ⟨i, rfl⟩ := Nat.exists_eq_add_of_le (Nat.le_of_not_lt hpart)
    rw [bytes_invertBit_outside m j (by omega), ← h] at h'
    exact beWord_invertBit_ne m (by omega) hj h'

/-- Settles O17: the inverted bit changes exactly one side of a comparison that held. -/
theorem oneInvertedBitFailsVerify : Obligations.OneInvertedBitFailsVerify := by
  intro s t total k j hexec hstatus hk hj
  obtain ⟨hlen, hmatch⟩ := trailerMatches_of_frmVerify hexec hstatus
  have hbroken := not_trailerMatches_invertBit hmatch hk hj
  exact ⟨_, exec_frmVerify_inside _ hlen, if_neg fun heq => hbroken heq.symm⟩

/-! ### The conversions (R170 to R172) -/

/-- `FRM.H2N` and `FRM.N2H` are the same conversion (R171). -/
theorem exec_conversion {i : Instr} {total : Word} (hi : i = .frmH2n total ∨ i = .frmN2h total) (s : State) :
    exec i s = convertRegion total s := by
  obtain rfl | rfl := hi
  · rfl
  · rfl

/-- Settles O18: each of the three outcomes of the one conversion has its rule in Laws/Frame.lean. -/
theorem conversionsSwapEveryWord : Obligations.ConversionsSwapEveryWord := by
  intro s total i hi
  rw [exec_conversion hi]
  refine ⟨?region, ?refused, ?past⟩
  case region =>
    rintro ⟨hheader, hcap, hwords⟩
    exact ⟨_, convertRegion_next s total hheader hcap hwords, s.swapRegion_converted _, rfl⟩
  case refused => exact fun ⟨hcap, hshape⟩ => convertRegion_refused s total hcap hshape
  case past => exact convertRegion_raise s total

/-- A range written back over a store that differs nowhere else restores every byte. -/
theorem read_writeBytes_bytes {m m' : Memory} {a n : Nat} (h : m.SameOutside m' a n) (x : Nat) :
    (m'.writeBytes a (m.bytes a n)).read x = m.read x := by
  by_cases hx : a ≤ x ∧ x < a + n
  case pos =>
    obtain ⟨k, rfl⟩ := Nat.exists_eq_add_of_le hx.1
    have hk : k < (m.bytes a n).length := by rw [Memory.bytes_length]; omega
    rw [Memory.read_writeBytes_inside _ _ _ hk, Memory.getElem_bytes]
  case neg => rw [Memory.read_writeBytes_outside _ _ _ (by rwa [Memory.bytes_length]), h x hx]

/-- The second conversion writes back the bytes that the first one swapped (R172). -/
theorem read_swapRegion_swapRegion (s : State) (total x : Nat) :
    ((s.swapRegion total).swapRegion total).fb.read x = s.fb.read x := by
  have hlen : (swapWords (s.fb.bytes 4 (total - 4))).length = total - 4 := by
    rw [swapWords_length, Memory.bytes_length]
  have hbytes : (s.swapRegion total).fb.bytes 4 (total - 4) = swapWords (s.fb.bytes 4 (total - 4)) := by
    have hsame := s.fb.bytes_writeBytes_same 4 (swapWords (s.fb.bytes 4 (total - 4)))
    rwa [hlen] at hsame
  rw [State.swapRegion_fb, hbytes, swapWords_swapWords]
  exact read_writeBytes_bytes (s.swapRegion_converted total).2 x

/-- Settles O19: the word swap is its own inverse, whichever of the two names it runs under. -/
theorem conversionTwiceIsTheIdentity : Obligations.ConversionTwiceIsTheIdentity := by
  intro s total i j hi hj hheader hcap hwords
  rw [exec_conversion hi]
  exact ⟨_, _, convertRegion_next s total hheader hcap hwords,
    (exec_conversion hj _).trans (convertRegion_next _ total hheader hcap hwords),
    read_swapRegion_swapRegion s total.toNat⟩

/-! ### Single bytes and words of the buffer (R161 to R164) -/

/-- Settles O12: a byte is zero-extended, and a word has the four bytes it was read from. -/
theorem bufferReadsReturnTheBytes : Obligations.BufferReadsReturnTheBytes := by
  intro s off
  refine ⟨?byte, ?word, ?pastByte, ?pastWord⟩
  case byte =>
    intro h
    rw [BitVec.ofNat_toNat]
    exact next_of_inside s _ h
  case word => exact fun h => ⟨_, next_of_inside s _ h, be32_wordOf _ _ _ _, rfl⟩
  case pastByte => exact fun h => raise_of_outside s _ (Nat.lt_succ_of_le h)
  case pastWord => exact raise_of_outside s _

/-- Settles O13: the byte write and the word write are writes of one and of four bytes at the offset. -/
theorem bufferWritesWriteOnlyTheirBytes : Obligations.BufferWritesWriteOnlyTheirBytes := by
  intro s off v
  refine ⟨?byte, ?word, ?pastByte, ?pastWord⟩
  case byte =>
    intro h
    rw [BitVec.ofNat_toNat]
    exact ⟨_, congrArg Host.Outcome.next (bufWrite_inside s (byteOperand v) h), Memory.read_write_same _ _ _,
      Memory.sameOutside_writeBytes _ _ [byteOperand v] rfl, rfl⟩
  case word =>
    exact fun h => ⟨_, next_of_inside s _ h, Memory.holds_writeBytes _ _ _,
      Memory.sameOutside_writeBytes _ _ _ (be32_length _), rfl⟩
  case pastByte => exact fun h => congrArg Host.Outcome.next (bufWrite_outside s _ h)
  case pastWord => exact raise_of_outside s _

end Sys2Proof.Proofs.FrameCodec
end

section
/-! SUPPORT. The command cycle (R200 to R219): the seven builds, the report of the write, the reception of a response by the
outcome of each test of R210, the error codes (R214), the getters, and the twelve statements about them. -/

namespace Sys2Proof.Proofs.CommandCycle

open Sys2Proof Sys2Proof.Machine Sys2Proof.Proofs.CrcUnit Sys2Proof.Proofs.FrameCodec

/-! ### The builds (R201 to R208) -/

/-- Each of the seven instructions is the build of its class and its payload words. -/
theorem exec_build (s : State) {a b : Word} {i : Instr} {x : CmdClass} {ws : List Word}
    (hi : (i, x, ws) ∈ [(Instr.cmdGver, CmdClass.gver, []), (.cmdGprm a, .gprm, [a]), (.cmdSprm a b, .sprm, [a, b]),
      (.cmdGpin a, .gpin, [a]), (.cmdScan a, .scan, [a]), (.cmdGscn a, .gscn, [a]), (.cmdGsc2 a b, .gsc2, [a, b])]) :
    exec i s = .next (s.build x ws) := by
  simp only [List.mem_cons, List.not_mem_nil, or_false, Prod.mk.injEq] at hi
  obtain ⟨rfl, rfl, rfl⟩ | ⟨rfl, rfl, rfl⟩ | ⟨rfl, rfl, rfl⟩ | ⟨rfl, rfl, rfl⟩ | ⟨rfl, rfl, rfl⟩ | ⟨rfl, rfl, rfl⟩ |
    ⟨rfl, rfl, rfl⟩ := hi
  all_goals rfl

/-- A build leaves the frame of its class in the buffer, with the trailer in the bit-serial form (R91, R94). -/
theorem build_holds (s : State) (x : CmdClass) {ws : List Word} {body : List Byte}
    (hbody : body = tagBytes (classTag x) ++ be32 (BitVec.ofNat 32 (4 * ws.length)) ++ ws.flatMap be32) :
    (s.build x ws).fb.Holds 0 (body ++ be32 (crc32Msb body)) := by
  have hframe : requestFrame (classTag x) ws = body ++ be32 (crc32Msb body) := by
    rw [requestFrame, ← hbody, stamped, crc32_eq_crc32Msb]
  rw [← hframe]
  exact Memory.holds_writeBytes _ _ _

theorem build_sameOutside (s : State) (x : CmdClass) (ws : List Word) :
    s.fb.SameOutside (s.build x ws).fb 0 (12 + 4 * ws.length) :=
  Memory.sameOutside_writeBytes _ _ _ (requestFrame_length _ _)

/-- Settles O20: the build writes one byte string, the frame of its class, at the start of the buffer. -/
theorem buildsWriteTheRequestFrame : Obligations.BuildsWriteTheRequestFrame := by
  intro s a b i x ws hi
  exact ⟨_, _, exec_build s hi, rfl, build_holds s x rfl, build_sameOutside s x ws, rfl⟩

/-! ### The report of the write (R209) -/

section Write

variable (s : State) {w : Word}

theorem exec_cmdTxdone_notReady (h : s.csmCls = none ∨ s.csmSt = .sent) :
    exec (.cmdTxdone w) s = .next (s.raise .invalidParameter 0#32) :=
  if_pos h

/-- A cycle in state Idle with a class takes the report. -/
theorem exec_cmdTxdone_ready (hcls : s.csmCls ≠ none) (hst : s.csmSt = .idle) :
    exec (.cmdTxdone w) s =
      if w.toInt < 0 then .next ({ s with csmCls := none }.raise .writeError w)
      else .next ({ s with csmSt := .sent }.succeed w 0#32) := by
  have hready : ¬(s.csmCls = none ∨ s.csmSt = .sent) := by simp [hcls, hst]
  exact if_neg hready

end Write

/-- Settles O22: the two tests of R209 in its order. -/
theorem txdoneReportsTheWrite : Obligations.TxdoneReportsTheWrite := by
  intro s w
  refine ⟨?notReady, ?failed, ?written⟩
  case notReady => exact exec_cmdTxdone_notReady s
  case failed => exact fun hcls hst hneg => (exec_cmdTxdone_ready s hcls hst).trans (if_pos hneg)
  case written => exact fun hcls hst hpos => (exec_cmdTxdone_ready s hcls hst).trans (if_neg (Int.not_lt.2 hpos))

/-! ### The tests of the byte count (R210, steps 1 to 3) -/

/-- The end of the cycle that `CMD.RXDONE` makes once its sequence check is passed (R200, R210). -/
def endCycle (s : State) : State := { s with csmSt := .idle, csmCls := none }

section Count

variable (s : State) {r : Word}

theorem exec_cmdRxdone_idle (h : s.csmSt = .idle) :
    exec (.cmdRxdone r) s = .next (s.raise .invalidParameter 0#32) :=
  if_pos h

/-- In state Sent the tests of the count follow. -/
theorem exec_cmdRxdone_sent (h : s.csmSt = .sent) :
    exec (.cmdRxdone r) s =
      if r.toInt < 0 then .next ((endCycle s).drawCrc.raise .readError r)
      else if r = 0#32 then .next ((endCycle s).drawCrc.raise .timeout 0#32)
      else if frameLengthOk r.toNat = false then .next ((endCycle s).raiseLength r.toNat)
      else receive s.csmCls r.toNat (endCycle s).drawCrc := by
  have hidle : s.csmSt ≠ .idle := by simp [h]
  exact if_neg hidle

theorem exec_cmdRxdone_readError (h : s.csmSt = .sent) (hneg : r.toInt < 0) :
    exec (.cmdRxdone r) s = .next ((endCycle s).drawCrc.raise .readError r) :=
  (exec_cmdRxdone_sent s h).trans (if_pos hneg)

theorem exec_cmdRxdone_timeout (h : s.csmSt = .sent) :
    exec (.cmdRxdone 0#32) s = .next ((endCycle s).drawCrc.raise .timeout 0#32) :=
  (exec_cmdRxdone_sent s h).trans ((if_neg (by decide)).trans (if_pos rfl))

/-- Any other count outside 5 to 65536 fails the length test. -/
theorem exec_cmdRxdone_badLength (h : s.csmSt = .sent) (hpos : 0 ≤ r.toInt) (hzero : r ≠ 0#32)
    (hlen : ¬(4 < r.toNat ∧ r.toNat ≤ 65536)) :
    exec (.cmdRxdone r) s = .next ((endCycle s).raiseLength r.toNat) := by
  have hbad : frameLengthOk r.toNat = false := Bool.eq_false_iff.2 fun hok => hlen ((frameLengthOk_iff _).1 hok)
  rw [exec_cmdRxdone_sent s h, if_neg (Int.not_lt.2 hpos), if_neg hzero, if_pos hbad]

theorem exec_cmdRxdone_short (h : s.csmSt = .sent) (hpos : 0 ≤ r.toInt) (hzero : r ≠ 0#32) (hshort : r.toNat ≤ 4) :
    exec (.cmdRxdone r) s = .next ((endCycle s).drawCrc.raise .invalidParameter 0#32) := by
  rw [exec_cmdRxdone_badLength s h hpos hzero (by omega), State.raiseLength_small _ (by omega)]

theorem exec_cmdRxdone_past (h : s.csmSt = .sent) (hpos : 0 ≤ r.toInt) (hpast : 65536 < r.toNat) :
    exec (.cmdRxdone r) s = .next ((endCycle s).raise .invalidParameter 0#32) := by
  have hzero : r ≠ 0#32 := by
    rintro rfl
    simp at hpast
  rw [exec_cmdRxdone_badLength s h hpos hzero (by omega), State.raiseLength_past _ hpast]

end Count

/-- Settles O23: the tests of the count in the order of R210. -/
theorem rxdoneReportsTransportFailures : Obligations.RxdoneReportsTransportFailures := by
  intro s r
  refine ⟨?idle, fun hsent hcount => ?ended, ?past⟩
  case idle => exact exec_cmdRxdone_idle s
  case past => exact exec_cmdRxdone_past s
  case ended =>
    by_cases hneg : r.toInt < 0
    case pos =>
      refine ⟨_, exec_cmdRxdone_readError s hsent hneg, ?_⟩
      rw [if_pos hneg, if_pos hneg]
      rfl
    case neg =>
      rw [if_neg hneg, if_neg hneg]
      by_cases hzero : r = 0#32
      case pos =>
        subst hzero
        exact ⟨_, exec_cmdRxdone_timeout s hsent, rfl⟩
      case neg =>
        rw [if_neg hzero]
        exact ⟨_, exec_cmdRxdone_short s hsent (Int.not_lt.1 hneg) hzero (hcount.resolve_left hneg), rfl⟩

/-! ### The trailer and the error frame (R210, steps 4 and 5) -/

theorem exec_cmdRxdone_receive (s : State) {r : Word} (hsent : s.csmSt = .sent) (hlong : 4 < r.toNat)
    (hcap : r.toNat ≤ 65536) : exec (.cmdRxdone r) s = receive s.csmCls r.toNat (endCycle s).drawCrc :=
  execCmdRxdone_receive s r hsent hlong hcap

/-- Settles O24: the mismatch is found before the tag is looked at. -/
theorem rxdoneCrcMismatchIsAHardFailure : Obligations.RxdoneCrcMismatchIsAHardFailure := by
  intro s r hsent hlong hcap hcrc
  rw [← crc32_eq_crc32Msb] at hcrc ⊢
  exact ⟨_, (exec_cmdRxdone_receive s hsent hlong hcap).trans (receive_mismatch _ _ _ hcrc), rfl⟩

/-- An intact error frame too short for its code is refused (U5). -/
theorem receive_error_short (x : Option CmdClass) {r : Nat} (s : State)
    (hcrc : crc32 (s.fb.bytes 0 (r - 4)) = s.fb.beWord (r - 4)) (htag : s.fb.bytes 0 4 = tagBytes .err) (hr : r < 16) :
    receive x r s = .refused .responseShape := by
  simp only [receive]
  rw [if_neg (not_not_intro hcrc), if_pos htag, if_pos hr]

/-- Settles O25: the error tag is recognised whatever the class, and the length decides whether there is a code to read. -/
theorem rxdoneReturnsTheErrorFrameKind : Obligations.RxdoneReturnsTheErrorFrameKind := by
  intro s r hsent hlong hcap hcrc htag
  rw [← crc32_eq_crc32Msb] at hcrc
  rw [exec_cmdRxdone_receive s hsent hlong hcap]
  refine ⟨?code, ?short⟩
  case code => exact fun hr => ⟨_, receive_error _ _ (endCycle s).drawCrc hcrc htag hr, rfl⟩
  case short => exact receive_error_short _ (endCycle s).drawCrc hcrc htag

/-! ### The extractions (R210, step 6, and R215 to R219) -/

/-- A Sent cycle of a class and an intact response of `r` bytes that is no error frame: what the extractions start from. -/
structure IntactResponse (s : State) (r : Word) (x : CmdClass) : Prop where
  sent : s.csmSt = .sent
  cls : s.csmCls = some x
  long : 4 < r.toNat
  cap : r.toNat ≤ 65536
  crc : crc32Msb (s.fb.bytes 0 (r.toNat - 4)) = s.fb.beWord (r.toNat - 4)
  tag : s.fb.bytes 0 4 ≠ tagBytes .err

/-- A length that is no whole words or too small is not of the shape of a parameter value or a scan response. -/
theorem not_wholeWords {n k : Nat} (h : (n - 4) % 4 ≠ 0 ∨ n < k) : ¬((n - 4) % 4 = 0 ∧ k ≤ n) := by
  omega

section Responses

variable {s : State} {r : Word} {x : CmdClass}

/-- `CMD.RXDONE` of an intact response is the extraction of the request's class (R210). -/
theorem IntactResponse.exec_eq (h : IntactResponse s r x) :
    exec (.cmdRxdone r) s = extract x r.toNat (endCycle s).drawCrc := by
  rw [exec_cmdRxdone_receive s h.sent h.long h.cap, h.cls]
  exact receive_extract x r.toNat (endCycle s).drawCrc ((crc32_eq_crc32Msb _).trans h.crc) h.tag

/-- A response whose shape is not that of the class is refused (U5). -/
theorem IntactResponse.exec_misfit (h : IntactResponse s r x) (hfit : ¬responseFits x s.params r.toNat) :
    exec (.cmdRxdone r) s = .refused .responseShape :=
  h.exec_eq.trans (extract_misfit x _ _ hfit)

/-- The value is the payload word as it was received, in network order (R66, R216). -/
theorem extractValue_beWord {n : Nat} (s : State) (hwords : (n - 4) % 4 = 0) (hlen : 16 + 4 * s.params.rspFirst ≤ n) :
    extractValue n s = .next ({ s.swapRegion n with cv0 := s.fb.beWord (8 + 4 * s.params.rspFirst) }.succeed
      (s.fb.beWord (8 + 4 * s.params.rspFirst)) 0#32) := by
  rw [extractValue_next n s hwords hlen, (s.swapRegion_converted n).leWord (by omega) (by omega) (by omega)]

/-- The two parameter classes share shape and extraction. -/
theorem IntactResponse.exec_value (h : IntactResponse s r x) (hx : x = .gprm ∨ x = .sprm) :
    (¬((r.toNat - 4) % 4 = 0 ∧ 16 + 4 * s.params.rspFirst ≤ r.toNat) →
      exec (.cmdRxdone r) s = .refused .responseShape) ∧
    exec (.cmdRxdone r) s = extractValue r.toNat (endCycle s).drawCrc := by
  obtain rfl | rfl := hx
  · exact ⟨h.exec_misfit, h.exec_eq⟩
  · exact ⟨h.exec_misfit, h.exec_eq⟩

/-- The three numbers are payload words as they were received, in network order (R66, R217). -/
theorem extractGpin_beWord {n q : Nat} (s : State) (hq : q = 8 + 4 * (s.params.rspFirst + 3)) (hlen : q + 4 ≤ n) :
    extractGpin n s = .next ({ s.swapRegion q with
      cv0 := s.fb.beWord (q - 12)
      cv1 := s.fb.beWord (q - 8)
      cv2 := s.fb.beWord (q - 4)
      strOff := BitVec.ofNat 17 q
      strLen := BitVec.ofNat 17 (stringLength (s.fb.bytes q (n - 4 - q))) }.succeed (s.fb.beWord (q - 12)) 0#32) := by
  have hconv := s.swapRegion_converted q
  rw [extractGpin_next n q s hq hlen, hconv.leWord (w := q - 12) (by omega) (by omega) (by omega),
    hconv.leWord (w := q - 8) (by omega) (by omega) (by omega),
    hconv.leWord (w := q - 4) (by omega) (by omega) (by omega)]

/-- `FRM.N2H` answers inside the buffer only on whole words, and leaves the converted region (R170, R171). -/
theorem frmN2h_next {m : State} (hcap : r.toNat ≤ 65536) (h : exec (.frmN2h r) s = .next m) :
    (r.toNat - 4) % 4 = 0 ∧ m.fb = (s.swapRegion r.toNat).fb := by
  rw [exec_conversion (.inr rfl)] at h
  by_cases hshape : r.toNat < 4 ∨ (r.toNat - 4) % 4 ≠ 0
  case pos =>
    rw [convertRegion_refused s r hcap hshape] at h
    cases h
  case neg =>
    obtain ⟨hheader, hwords⟩ := not_or.1 hshape
    rw [convertRegion_next s r (Nat.not_lt.1 hheader) hcap (not_not.1 hwords)] at h
    cases h
    exact ⟨not_not.1 hwords, rfl⟩

/-- The two scan-request classes share their extraction. -/
theorem IntactResponse.exec_record (h : IntactResponse s r x) (hx : x = .gscn ∨ x = .gsc2) :
    exec (.cmdRxdone r) s = extractRecord r.toNat (endCycle s).drawCrc := by
  obtain rfl | rfl := hx
  · exact h.exec_eq
  · exact h.exec_eq

end Responses

/-- The class of a cycle that is known to be one of two. -/
theorem exists_class_of_either {s : State} {y z : CmdClass} (h : s.csmCls = some y ∨ s.csmCls = some z) :
    ∃ x, (x = y ∨ x = z) ∧ s.csmCls = some x := by
  obtain h | h := h
  · exact ⟨_, .inl rfl, h⟩
  · exact ⟨_, .inr rfl, h⟩

/-- Settles O28: the string is read before the Length word is converted, and lies outside it. -/
theorem rxdoneExtractsTheVersionString : Obligations.RxdoneExtractsTheVersionString := by
  intro s r hsent hcls hlong hcap hcrc htag
  have hresp : IntactResponse s r .gver := ⟨hsent, hcls, hlong, hcap, hcrc, htag⟩
  refine ⟨fun hshort => hresp.exec_misfit (Nat.not_le.2 hshort), fun hlen => ?string⟩
  case string =>
    obtain ⟨hn, hbefore, hat⟩ := stringLength_bytes s.fb 8 (r.toNat - 12)
    exact ⟨_, _, hresp.exec_eq.trans (extractGver_next _ _ hlen), hn, hbefore, hat,
      State.swapRegion_converted _ 8, rfl⟩

/-- Settles O29: the word `P_RSP_FIRST` lies in the converted region, so it reads in host order as it was received. -/
theorem rxdoneExtractsTheParameterValue : Obligations.RxdoneExtractsTheParameterValue := by
  intro s r hsent hcls hlong hcap hcrc htag
  obtain ⟨x, hx, hcls⟩ := exists_class_of_either hcls
  have hresp : IntactResponse s r x := ⟨hsent, hcls, hlong, hcap, hcrc, htag⟩
  obtain ⟨hmisfit, hexec⟩ := hresp.exec_value hx
  refine ⟨fun hshape => hmisfit (not_wholeWords hshape), fun hwords hlen => ?value⟩
  case value => exact ⟨_, hexec.trans (extractValue_beWord _ hwords hlen), State.swapRegion_converted _ _, rfl⟩

/-- Settles O30: the three words lie below `q`, in the converted region, and the string from `q` on, outside it. -/
theorem rxdoneExtractsTheParameterInfo : Obligations.RxdoneExtractsTheParameterInfo := by
  intro s r q hq hsent hcls hlong hcap hcrc htag
  have hresp : IntactResponse s r .gpin := ⟨hsent, hcls, hlong, hcap, hcrc, htag⟩
  refine ⟨fun hshort => hresp.exec_misfit ?misfit, fun hlen => ?info⟩
  case misfit =>
    show ¬24 + 4 * s.params.rspFirst ≤ r.toNat
    omega
  case info =>
    obtain ⟨hn, hbefore, hat⟩ := stringLength_bytes s.fb q (r.toNat - 4 - q)
    exact ⟨_, _, hresp.exec_eq.trans (extractGpin_beWord _ hq hlen), hn, hbefore, hat,
      State.swapRegion_converted _ q, rfl⟩

/-- Settles O31: the parser runs on the frame that `FRM.N2H` leaves, which is what the statement names it by. -/
theorem rxdoneExtractsTheScan : Obligations.RxdoneExtractsTheScan := by
  intro s r hsent hlong hcap hcrc htag
  have hresp {x : CmdClass} (hcls : s.csmCls = some x) : IntactResponse s r x := ⟨hsent, hcls, hlong, hcap, hcrc, htag⟩
  refine ⟨?misfit, ?undefined, ?scan, ?parsed⟩
  case misfit =>
    intro hcls hshape
    obtain hcls | hcls | hcls := hcls
    · exact (hresp hcls).exec_misfit (not_wholeWords hshape)
    · exact (hresp hcls).exec_misfit (not_wholeWords hshape)
    · exact (hresp hcls).exec_misfit (not_wholeWords hshape)
  case undefined =>
    intro m hcls hlen hconv hparse
    obtain ⟨x, hx, hcls⟩ := exists_class_of_either hcls
    obtain ⟨hwords, hfb⟩ := frmN2h_next hcap hconv
    rw [hfb] at hparse
    exact ((hresp hcls).exec_record hx).trans (extractRecord_undefined _ _ hwords hlen hparse)
  case scan =>
    intro hcls hwords hlen
    exact ⟨_, (hresp hcls).exec_eq.trans (extractScan_next _ _ hwords hlen), State.swapRegion_converted _ _, rfl⟩
  case parsed =>
    intro sr m hcls hlen hconv hparse
    obtain ⟨x, hx, hcls⟩ := exists_class_of_either hcls
    obtain ⟨hwords, hfb⟩ := frmN2h_next hcap hconv
    rw [hfb] at hparse ⊢
    exact ⟨_, ((hresp hcls).exec_record hx).trans (extractRecord_parsed _ _ hwords hlen hparse), rfl⟩

/-- Settles O32: the conversion is what the parser reads and is not kept. -/
theorem rxdoneScanOverflowClearsTheRecord : Obligations.RxdoneScanOverflowClearsTheRecord := by
  intro s m r hsent hcls hwords hlen hcap hcrc htag hconv hparse
  obtain ⟨x, hx, hcls⟩ := exists_class_of_either hcls
  have hresp : IntactResponse s r x := ⟨hsent, hcls, by omega, hcap, hcrc, htag⟩
  rw [(frmN2h_next hcap hconv).2] at hparse
  exact ⟨_, (hresp.exec_record hx).trans (extractRecord_overflow _ _ hwords hlen hparse), rfl⟩

/-! ### The error codes (R214, R350) -/

/-- The position of a kind in R350's list is its code. -/
theorem all_getElem?_code (k : Status) : Status.all[k.code.toNat]? = some k := by
  cases k <;> rfl

theorem code_injective {j k : Status} (h : j.code = k.code) : j = k := by
  have hj := all_getElem?_code j
  rw [h, all_getElem?_code k] at hj
  exact (Option.some.inj hj).symm

/-- Only `Success` has the code 0. -/
theorem code_pos {k : Status} (h : k ≠ .success) : 0 < k.code.toNat := by
  refine Nat.pos_of_ne_zero fun hzero => h (code_injective ?_)
  exact BitVec.eq_of_toNat_eq hzero

/-- The kinds with the code `c` are failures whose entry of `ERRCODE` is `c`. -/
theorem codeOf_eq_some_iff {p : Params} {k : Status} {c : Word} :
    p.codeOf k = some c ↔ k ≠ .success ∧ ∃ h : k.code.toNat - 1 < 21, p.errCode.val[k.code.toNat - 1] = c := by
  rw [Params.codeOf]
  split
  case isTrue hk => simp [hk]
  case isFalse hk => simp [hk, Vector.getElem?_eq_some_iff]

/-- `ERRCODE` is injective (R10), so no two kinds have one code. -/
theorem codeOf_injective {p : Params} {j k : Status} {c : Word} (hj : p.codeOf j = some c) (hk : p.codeOf k = some c) :
    j = k := by
  obtain ⟨hj0, hj1, hjc⟩ := codeOf_eq_some_iff.1 hj
  obtain ⟨hk0, hk1, hkc⟩ := codeOf_eq_some_iff.1 hk
  have hindex := p.wf_all.2 _ _ hj1 hk1 (hjc.trans hkc.symm)
  have hjpos := code_pos hj0
  have hkpos := code_pos hk0
  exact code_injective (BitVec.eq_of_toNat_eq (by omega))

theorem errMap_nonneg (p : Params) {c : Word} (h : 0 ≤ c.toInt) : errMap p c = .success := by
  rw [errMap, if_pos h]

/-- A listed code maps to its kind: the search finds a kind of that code, and there is no other. -/
theorem errMap_listed {p : Params} {k : Status} {c : Word} (hk : p.codeOf k = some c) : errMap p c = k := by
  obtain ⟨-, hindex, hcode⟩ := codeOf_eq_some_iff.1 hk
  have hneg : ¬0 ≤ c.toInt := by
    rw [← hcode]
    exact Int.not_le.2 (p.wf_all.1 _ hindex)
  rw [errMap, if_neg hneg]
  cases hfind : Status.all.find? (fun j => p.codeOf j == some c) with
  | none =>
    have hmem : k ∈ Status.all := List.mem_of_getElem? (all_getElem?_code k)
    exact absurd (beq_iff_eq.2 hk) (List.find?_eq_none.1 hfind k hmem)
  | some j =>
    have hj : p.codeOf j = some c := by simpa using List.find?_some hfind
    exact codeOf_injective hj hk

/-- A negative code of no kind maps to `InvalidHandle`: the search finds nothing. -/
theorem errMap_unlisted {p : Params} {c : Word} (hneg : c.toInt < 0) (h : ∀ k, p.codeOf k ≠ some c) :
    errMap p c = .invalidHandle := by
  have hfind : Status.all.find? (fun k => p.codeOf k == some c) = none :=
    List.find?_eq_none.2 fun k _ hk => h k (beq_iff_eq.1 hk)
  rw [errMap, if_neg (Int.not_le.2 hneg), hfind]
  rfl

/-- Settles O26: the type of `ERRCODE` gives the first two parts, and with them the search of `ErrMap` inverts it. -/
theorem errorCodeMapping : Obligations.ErrorCodeMapping := by
  intro p c
  refine ⟨p.wf_all.1, p.wf_all.2, errMap_nonneg p, ?listed, ?unlisted⟩
  case listed => exact fun k hindex hk hc => errMap_listed (codeOf_eq_some_iff.2 ⟨hk, hindex, hc.symm⟩)
  case unlisted =>
    refine fun hneg hnone => errMap_unlisted hneg fun k hk => ?_
    obtain ⟨-, hindex, hcode⟩ := codeOf_eq_some_iff.1 hk
    exact hnone _ hindex hcode.symm

/-! ### The getters (R212, R213) -/

/-- `CMD.RDOUT` of the string view (R212), zero-extended. -/
theorem exec_cmdRdout_string (s : State) :
    exec (.cmdRdout 3#32) s =
      .next (s.succeed (BitVec.ofNat 32 s.strOff.toNat) (BitVec.ofNat 32 s.strLen.toNat)) := by
  rw [BitVec.ofNat_toNat, BitVec.ofNat_toNat]
  rfl

theorem exec_cmdRdout_outOfRange (s : State) {sel : Word} (h : 3 < sel.toNat) :
    exec (.cmdRdout sel) s = .next (s.raise .indexOutOfRange 0#32) := by
  have hne {k : Word} (hk : k.toNat ≤ 3) : sel ≠ k := by
    rintro rfl
    omega
  show execCmdRdout sel s = _
  rw [execCmdRdout, if_neg (hne (by decide)), if_neg (hne (by decide)), if_neg (hne (by decide)), if_neg (hne (by decide))]

/-- Settles O27: the codes are R350's kind by kind, and each selector below 4 picks its field. -/
theorem outputAndMappingGetters : Obligations.OutputAndMappingGetters := by
  refine ⟨?codes, fun s v => ⟨rfl, rfl, rfl, exec_cmdRdout_string s, exec_cmdRdout_outOfRange s, ?errmap⟩⟩
  case codes =>
    intro k
    cases k <;> decide
  case errmap =>
    exact ⟨_, rfl, BitVec.toNat_setWidth_of_le (by decide), rfl⟩

end Sys2Proof.Proofs.CommandCycle
end

section
/-! SUPPORT. The scan parser family (R251 to R260): the counts a payload gives, the record `SCN.PARSE` fills from it, the shapes it
refuses, the record's clearing and its getters, and the five statements about them. -/

namespace Sys2Proof.Proofs.ScanParser

open Sys2Proof Sys2Proof.Machine

/-! ### The counts of a payload (R105, R251) -/

/-- A word that holds a small natural number reads as that number with its sign (R11). -/
theorem s32_of_eq_ofNat {w : Word} {n : Nat} (hw : w = BitVec.ofNat 32 n) (h : n < 2 ^ 31) : s32 w = n := by
  rw [hw, s32_ofNat h]

section Echoes

variable {rd : Nat → Word} {nP : Nat}

/-- Parameter 4 is missing, or the word at offset 28. -/
theorem echoCount_scanParams :
    echoCount (scanParams rd nP) = if 5 ≤ nP ∧ rd 28 ≠ 0#32 then s32 (rd 28) else 1 := by
  by_cases h5 : 5 ≤ nP
  case pos =>
    have hin : 4 < min nP 10 := by omega
    by_cases h0 : rd 28 = 0#32 <;> simp [echoCount, hin, h5, h0]
  case neg =>
    have hout : ¬4 < min nP 10 := by omega
    simp [echoCount, hout, h5]

theorem echoCount_of_present (h5 : 5 ≤ nP) (hne : s32 (rd 28) ≠ 0) : echoCount (scanParams rd nP) = s32 (rd 28) := by
  have hword : rd 28 ≠ 0#32 := fun h0 => hne (by rw [h0]; rfl)
  rw [echoCount_scanParams, if_pos ⟨h5, hword⟩]

theorem echoCount_le_four (h : nP < 5 ∨ s32 (rd 28) ≤ 4) : echoCount (scanParams rd nP) ≤ 4 := by
  rw [echoCount_scanParams]
  split <;> omega

/-- The two ways to one of the counts 1 to 4: the word 0, and the count itself. -/
theorem echoCount_eq {par : Vector Word 10} {nE : Nat}
    (h : par[4] = 0#32 ∧ nE = 1 ∨ par[4] = BitVec.ofNat 32 nE ∧ 1 ≤ nE ∧ nE ≤ 4) : echoCount par = nE ∧ nE ≤ 4 := by
  obtain ⟨hzero, rfl⟩ | ⟨hcount, hpos, hle⟩ := h
  · exact ⟨if_pos hzero, by decide⟩
  · have hsign : s32 par[4] = nE := s32_of_eq_ofNat hcount (by omega)
    have hne : par[4] ≠ 0#32 := by
      intro h0
      rw [h0] at hsign
      have : s32 0#32 = 0 := rfl
      omega
    exact ⟨(if_neg hne).trans hsign, hle⟩

end Echoes

/-! ### A payload whose counts lie inside the maxima (R251) -/

/-- The counts and the bytes per sample that a payload gives, with the points and echoes inside the maxima. -/
structure Counts (fb : Memory) (nP nE nPts bps : Nat) : Prop where
  params : s32 (fb.leWord 8) = nP
  echoes : echoCount (scanParams fb.leWord nP) = nE
  echoes_le : nE ≤ 4
  points : s32 (fb.leWord (12 + 4 * nP)) = nPts
  points_le : nPts ≤ 4000
  bytes : bps = bytesPerSample (scanParams fb.leWord nP)[8]

/-- The record such a payload fills (R251): sample `k` lies `k` times the bytes per sample behind the point count. -/
def filledRecord (fb : Memory) (nP nE nPts bps : Nat) : ScanRecord where
  npar := min nP 10
  param := scanParams fb.leWord nP
  npts := nPts
  nech := nE
  dist := (List.range (nPts * nE)).map fun k => if bps = 0 then 0#32 else fb.leWord (16 + 4 * nP + k * bps)
  pw := (List.range (nPts * nE)).map fun k => if bps = 8 then fb.leWord (16 + 4 * nP + k * bps + 4) else 0#32

/-- An entry of a table of samples, listed point-major and echo-minor (R251). -/
theorem getD_samples (f : Nat → Word) {p e nPts nE : Nat} (hp : p < nPts) (he : e < nE) :
    ((List.range (nPts * nE)).map f).getD (p * nE + e) 0#32 = f (p * nE + e) := by
  simp [List.getD, List.getElem?_range (sample_position hp he)]

section Payload

variable {fb : Memory} {nP nE nPts bps : Nat}

/-- The counts from the payload's words, as the statements give them. -/
theorem Counts.of_words {par : Nat → Word} (hP : fb.leWord 8 = BitVec.ofNat 32 nP) (hPlt : nP < 2 ^ 31)
    (hpar : ∀ k, par k = if k < min nP 10 then fb.leWord (12 + 4 * k) else 0#32)
    (hE : par 4 = 0#32 ∧ nE = 1 ∨ par 4 = BitVec.ofNat 32 nE ∧ 1 ≤ nE ∧ nE ≤ 4)
    (hPts : fb.leWord (12 + 4 * nP) = BitVec.ofNat 32 nPts) (hPtsle : nPts ≤ 4000)
    (hbps : bps = if par 8 = 4#32 then 4 else if par 8 = 8#32 ∨ par 8 = 7#32 then 8 else 0) :
    Counts fb nP nE nPts bps := by
  have hword (k : Nat) (hk : k < 10) : par k = (scanParams fb.leWord nP)[k] := by rw [hpar, scanParams_getElem]
  rw [hword 4 (by decide)] at hE
  rw [hword 8 (by decide)] at hbps
  obtain ⟨hechoes, hEle⟩ := echoCount_eq hE
  exact {
    params := s32_of_eq_ofNat hP hPlt
    echoes := hechoes
    echoes_le := hEle
    points := s32_of_eq_ofNat hPts (by omega)
    points_le := hPtsle
    bytes := hbps }

theorem Counts.parseScan_parsed {total : Nat} (h : Counts fb nP nE nPts bps) (h16 : 16 ≤ total)
    (hblock : 12 + 4 * nP + 4 ≤ total - 4) (hfit : 16 + 4 * nP + nPts * nE * bps ≤ total - 4) :
    parseScan fb total = .parsed (filledRecord fb nP nE nPts bps) :=
  parseScan_next h16 h.params hblock h.echoes h.echoes_le h.points h.points_le h.bytes hfit

theorem filledRecord_counts (h : nE ≤ 4) :
    (filledRecord fb nP nE nPts bps).counts = BitVec.ofNat 32 (min nP 10 * 256 + nE) :=
  ScanRecord.counts_eq (Nat.min_le_right _ _) h

theorem filledRecord_distAt (p e : Nat) :
    (filledRecord fb nP nE nPts bps).distAt p e =
      if p < nPts ∧ e < nE ∧ bps ≠ 0 then fb.leWord (16 + 4 * nP + (p * nE + e) * bps) else 0#32 := by
  by_cases hin : p < nPts ∧ e < nE
  case pos =>
    obtain ⟨hp, he⟩ := hin
    rw [ScanRecord.distAt_inside _ hp he]
    refine (getD_samples _ hp he).trans ?_
    by_cases h0 : bps = 0 <;> simp [hp, he, h0]
  case neg =>
    rw [ScanRecord.distAt_outside _ hin, if_neg fun ⟨hp, he, _⟩ => hin ⟨hp, he⟩]

theorem filledRecord_pwAt (p e : Nat) :
    (filledRecord fb nP nE nPts bps).pwAt p e =
      if p < nPts ∧ e < nE ∧ bps = 8 then fb.leWord (16 + 4 * nP + (p * nE + e) * bps + 4) else 0#32 := by
  by_cases hin : p < nPts ∧ e < nE
  case pos =>
    obtain ⟨hp, he⟩ := hin
    rw [ScanRecord.pwAt_inside _ hp he]
    refine (getD_samples _ hp he).trans ?_
    simp [hp, he]
  case neg =>
    rw [ScanRecord.pwAt_outside _ hin, if_neg fun ⟨hp, he, _⟩ => hin ⟨hp, he⟩]

end Payload

/-- Settles O33: the counts pass the parser's tests, and the record is read back entry by entry. -/
theorem parseFillsTheWholeRecord : Obligations.ParseFillsTheWholeRecord := by
  intro s total nP nE nPts bps par h16 hcap hP hPlt hblock hpar hE hPts hPtsle hbps hfit
  have hcounts : Counts s.fb nP nE nPts bps := .of_words hP hPlt hpar hE hPts hPtsle hbps
  refine ⟨_, execScnParse_parsed s total hcap (hcounts.parseScan_parsed h16 hblock hfit), rfl, ?params, rfl, rfl,
    filledRecord_distAt, filledRecord_pwAt, ?frame⟩
  case params =>
    intro k hk
    rw [hpar]
    exact scanParams_getElem _ _ _ hk
  case frame =>
    rw [filledRecord_counts hcounts.echoes_le]
    rfl

/-- Settles O34: each of the two counts is a test of R251's overflow step, which comes before the tests of signs and size. -/
theorem parseOverflowClearsTheRecord : Obligations.ParseOverflowClearsTheRecord := by
  intro s total nP h16 hcap hP hPlt hblock hlarge
  refine execScnParse_overflow s total hcap (parseScan_overflow h16 (s32_of_eq_ofNat hP hPlt) hblock ?large)
  case large =>
    obtain ⟨h5, hechoes⟩ | hpoints := hlarge
    · have hne : s32 (s.fb.leWord 28) ≠ 0 := (Int.lt_trans (by decide) hechoes).ne'
      exact .inl ((echoCount_of_present h5 hne).symm ▸ hechoes)
    · exact .inr hpoints

/-! ### The payloads the document does not define (R253) -/

section Undefined

variable {fb : Memory} {total : Nat}

theorem parseScan_of_short (h : total < 16) : parseScan fb total = .undefined := if_pos h

theorem parseScan_of_negativeParams (h : s32 (fb.leWord 8) < 0) : parseScan fb total = .undefined := by
  simp [parseScan, h]

/-- A parameter block or point count past the payload: the count is negative, or it is the number the word holds. -/
theorem parseScan_of_blockPast (h : total < 20 + 4 * (fb.leWord 8).toNat) : parseScan fb total = .undefined := by
  by_cases hneg : s32 (fb.leWord 8) < 0
  case pos => exact parseScan_of_negativeParams hneg
  case neg =>
    have hpast : total < 16 ∨ total - 4 < 12 + 4 * (fb.leWord 8).toNat + 4 := by omega
    rw [← s32_toNat (Int.not_lt.1 hneg)] at hpast
    obtain hshort | hpast := hpast
    · exact parseScan_of_short hshort
    · simp [parseScan, hpast]

/-- Neither count overflows, and one of them is negative. -/
theorem parseScan_of_negativeCount {nP : Nat} (hparams : s32 (fb.leWord 8) = nP) (hblock : 20 + 4 * nP ≤ total)
    (hechoes : echoCount (scanParams fb.leWord nP) ≤ 4) (hpoints : s32 (fb.leWord (12 + 4 * nP)) ≤ 4000)
    (hneg : echoCount (scanParams fb.leWord nP) < 0 ∨ s32 (fb.leWord (12 + 4 * nP)) < 0) :
    parseScan fb total = .undefined := by
  have hmaxE : Config.maxEchoes = 4 := rfl
  have hmaxP : Config.maxPoints = 4000 := rfl
  simp only [parseScan, hparams, Int.toNat_natCast]
  rw [if_neg (by omega), if_neg (by omega), if_neg (by omega), if_neg (by omega), if_pos hneg]

/-- The counts are inside the maxima, and the samples reach past the payload: the last test of R251. -/
theorem Counts.parseScan_of_samplesPast {nP nE nPts bps : Nat} (h : Counts fb nP nE nPts bps)
    (hblock : 20 + 4 * nP ≤ total) (hpast : total < 20 + 4 * nP + nPts * nE * bps) :
    parseScan fb total = .undefined := by
  obtain ⟨hparams, hechoes, hEle, hpoints, hPle, rfl⟩ := h
  have hmaxE : Config.maxEchoes = 4 := rfl
  have hmaxP : Config.maxPoints = 4000 := rfl
  simp only [parseScan, hparams, hechoes, hpoints, Int.toNat_natCast]
  rw [if_neg (by omega), if_neg (by omega), if_neg (by omega), if_neg (by omega), if_neg (by omega), if_pos (by omega)]

end Undefined

/-- Settles O35: a length past the buffer fails before the parser runs, and each other shape is one of its refusals. -/
theorem parseRefusesUndefinedPayloads : Obligations.ParseRefusesUndefinedPayloads := by
  intro s total
  refine ⟨?past, fun hcap => ?inside⟩
  case past =>
    intro hlong
    have hout : ¬inBuffer total.toNat 0 = true := by simpa using hlong
    exact if_neg hout
  case inside =>
    have hrefused := execScnParse_refused s total hcap
    refine ⟨fun h => hrefused (parseScan_of_short h), fun h => hrefused (parseScan_of_negativeParams h),
      fun h => hrefused (parseScan_of_blockPast h), ?points, ?echoes, ?samples⟩
    case points =>
      intro nP hP hPlt hblock hechoes hneg
      have hpoints : s32 (s.fb.leWord (12 + 4 * nP)) ≤ 4000 := (Int.lt_trans hneg (by decide)).le
      exact hrefused (parseScan_of_negativeCount (s32_of_eq_ofNat hP hPlt) hblock (echoCount_le_four hechoes) hpoints
        (.inr hneg))
    case echoes =>
      intro nP hP h5 hPlt hblock hneg hpoints
      have hle : s32 (s.fb.leWord 28) ≤ 4 := (Int.lt_trans hneg (by decide)).le
      have hcount := echoCount_of_present (rd := s.fb.leWord) h5 (Int.ne_of_lt hneg)
      exact hrefused (parseScan_of_negativeCount (s32_of_eq_ofNat hP hPlt) hblock (echoCount_le_four (.inr hle)) hpoints
        (.inl (hcount.symm ▸ hneg)))
    case samples =>
      intro nP nE nPts bps par hP hPlt hblock hpar hE hPts hPtsle hbps hpast
      have hcounts : Counts s.fb nP nE nPts bps := .of_words hP hPlt hpar hE hPts hPtsle hbps
      exact hrefused (hcounts.parseScan_of_samplesPast hblock hpast)

/-! ### Clearing and reading the record (R255 to R259) -/

/-- Settles O36: the counts word of a record within its maxima packs without overlap. -/
theorem clearAndInfoResults : Obligations.ClearAndInfoResults := by
  refine fun s => ⟨rfl, fun p e => ⟨ScanRecord.cleared_distAt p e, ScanRecord.cleared_pwAt p e⟩, ?info⟩
  case info =>
    intro hpar hech
    rw [← ScanRecord.counts_eq hpar hech]
    rfl

section Getters

variable (s : State) {p e : Word}

theorem exec_scnGetp_inside (h : p.toNat < 10) :
    exec (.scnGetp p) s = .next (s.succeed s.sr.param[p.toNat] 0#32) := by
  have hparam : s.sr.param.toList.getD p.toNat 0#32 = s.sr.param[p.toNat] := by simp [List.getD, h]
  rw [← hparam]
  exact if_pos h

theorem exec_scnGetp_outside (h : 10 ≤ p.toNat) : exec (.scnGetp p) s = .next (s.raise .indexOutOfRange 0#32) :=
  if_neg (Nat.not_lt.2 h)

end Getters

/-- Settles O37: each getter has one test, on the index or on both indexes. -/
theorem recordGettersResults : Obligations.RecordGettersResults := by
  intro s p e
  refine ⟨exec_scnGetp_inside s, exec_scnGetp_outside s, ?inside, ?outside⟩
  case inside => exact fun hp he => ⟨if_pos ⟨hp, he⟩, if_pos ⟨hp, he⟩⟩
  case outside =>
    intro hout
    have hnot : ¬(p.toNat < s.sr.npts ∧ e.toNat < s.sr.nech) := by omega
    exact ⟨if_neg hnot, if_neg hnot⟩

end Sys2Proof.Proofs.ScanParser
end

section
/-! SUPPORT. The relay (R281 to R292): the accumulator that an averaging request starts and the slot that a scan response fills,
and the eight statements about `RLY.OUT`, `RLY.IN` and `RLY.RESET`. The paths of the two rewrites are those of Laws/Relay.lean. -/

namespace Sys2Proof.Proofs.RelayCycle

open Sys2Proof Sys2Proof.Machine Sys2Proof.Proofs.CrcUnit

/-! ### What the accumulator holds (R34, R35, R284) -/

/-- A length inside the buffer keeps its value in the 17 bits of a store's length (R20). -/
theorem put_len_toNat (st : Store) {l : List Byte} (h : l.length ≤ 65536) : (st.put l).len.toNat = l.length := by
  rw [Store.put_len, BitVec.toNat_ofNat]
  omega

theorem put_holds (st : Store) (l : List Byte) : (st.put l).bytes.Holds 0 l := Memory.holds_writeBytes _ _ _

/-- The slot that a scan response fills (R290). -/
theorem store_slot (r : Relay) (f : List Byte) (h : r.cnt < 10) : (r.store f).slot[r.cnt] = r.slot[r.cnt].put f := by
  simp only [Relay.store_eq r f h, Vector.getElem_set_self]

/-- Every other slot keeps its frame (R290). -/
theorem store_slot_other (r : Relay) (f : List Byte) (h : r.cnt < 10) {k : Nat} (hk : k < 10) (hne : k ≠ r.cnt) :
    (r.store f).slot[k] = r.slot[k] := by
  simp only [Relay.store_eq r f h, Vector.getElem_set_ne _ _ hne.symm]

/-- A stored frame changes the slots and the count. -/
theorem store_frame (r : Relay) (f : List Byte) (h : r.cnt < 10) :
    r.store f = { r with slot := (r.store f).slot, cnt := r.cnt + 1 } := by
  rw [Relay.store_eq r f h]

/-- The rewritten request, with its trailer in the bit-serial form (R94, R101, R284). -/
theorem plainRequest_eq {p : Params} {body : List Byte} (hbody : body = tagBytes .gscn ++ be32 4#32 ++ be32 p.gscnScanNum) :
    plainRequest p = body ++ be32 (crc32Msb body) := by
  have hwords : [p.gscnScanNum].flatMap be32 = be32 p.gscnScanNum := List.flatMap_singleton _ _
  rw [plainRequest, requestFrame, stamped, crc32_eq_crc32Msb, hwords, hbody]
  rfl

/-- A replay leaves the last transformed request at the start of the buffer (R281). -/
theorem replay_holds (s : State) (action : Word) : (s.replay action).fb.Holds 0 (s.rly.lastOut.bytes 0 16) :=
  Memory.holds_writeBytes _ _ _

/-- A replay touches those sixteen bytes only (R69, R281). -/
theorem replay_sameOutside (s : State) (action : Word) : s.fb.SameOutside (s.replay action).fb 0 16 :=
  Memory.sameOutside_writeBytes _ _ _ (Memory.bytes_length _ _ _)

/-! ### The trailer of a scan response (R290) -/

/-- The frame has no trailer, or one that does not match in the bit-serial form. -/
theorem frameIntact_eq_false {m : Memory} {total : Nat}
    (h : total = 4 ∨ crc32Msb (m.bytes 0 (total - 4)) ≠ m.beWord (total - 4)) : frameIntact m total = false := by
  rw [Bool.eq_false_iff, ne_eq, frameIntact_iff, crc32_eq_crc32Msb]
  rintro ⟨hlen, hcrc⟩
  exact h.elim hlen.ne' fun hne => hne hcrc

/-- The frame has a trailer, and it matches in the bit-serial form. -/
theorem frameIntact_eq_true {m : Memory} {total : Nat} (hlen : 4 < total)
    (hcrc : crc32Msb (m.bytes 0 (total - 4)) = m.beWord (total - 4)) : frameIntact m total = true := by
  rw [frameIntact_iff, crc32_eq_crc32Msb]
  exact ⟨hlen, hcrc⟩

/-! ### The length test that both operations begin with (R284, R290) -/

section Length

variable (s : State) {total : Word} {i : Instr}

theorem exec_badLength (hi : i = .rlyOut total ∨ i = .rlyIn total) (h : total.toNat < 4 ∨ 65536 < total.toNat) :
    exec i s = .next (s.raiseLength total.toNat) := by
  obtain rfl | rfl := hi
  · exact execRlyOut_raise s total h
  · exact execRlyIn_raise s total h

/-- A length below that of a tag leaves `CRC.R` at any value (R137). -/
theorem exec_short (hi : i = .rlyOut total ∨ i = .rlyIn total) (h : total.toNat < 4) :
    exec i s = .next (s.drawCrc.raise .invalidParameter 0#32) := by
  rw [exec_badLength s hi (.inl h), s.raiseLength_small (by omega)]

/-- A length past the buffer touches nothing (R61). -/
theorem exec_past (hi : i = .rlyOut total ∨ i = .rlyIn total) (h : 65536 < total.toNat) :
    exec i s = .next (s.raise .invalidParameter 0#32) := by
  rw [exec_badLength s hi (.inr h), s.raiseLength_past h]

end Length

/-! ### `RLY.OUT` (R284 to R286) -/

/-- Settles O38: each clause is one of the paths on which `RLY.OUT` rewrites nothing. -/
theorem outboundPassesOtherFrames : Obligations.OutboundPassesOtherFrames := by
  intro s total
  refine ⟨fun hshort => ⟨_, exec_short s (.inl rfl) hshort, rfl⟩, exec_past s (.inl rfl), ?tag, ?counts⟩
  case tag => exact fun hlow hcap htag => ⟨_, execRlyOut_pass s total hlow hcap htag, rfl⟩
  case counts => exact fun hlow hcap htag hone => ⟨_, execRlyOut_deactivate s total hlow hcap htag hone, rfl⟩

/-- Settles O39: the same sixteen bytes are written to the buffer and to `RLY.LASTOUT`, whatever the relay held before. -/
theorem outboundRewritesTheAveragingRequest : Obligations.OutboundRewritesTheAveragingRequest := by
  intro s total hlow hcap htag hn hn10 hm
  refine ⟨_, _, execRlyOut_rewrite s total hlow hcap htag hn hn10 hm, rfl, ?frame, ?outside, ?replay, ?length, ?request, rfl⟩
  case frame =>
    rw [← plainRequest_eq rfl]
    exact Memory.holds_writeBytes _ _ _
  case outside => exact Memory.sameOutside_writeBytes _ _ _ (plainRequest_length _)
  case replay =>
    rw [← plainRequest_eq rfl]
    exact Memory.holds_writeBytes _ _ _
  case length =>
    have hlen : (s.fb.bytes 0 total.toNat).length = total.toNat := Memory.bytes_length _ _ _
    exact (put_len_toNat _ (hlen.trans_le hcap)).trans hlen
  case request => exact put_holds _ _

/-- Settles O40: the two refusals of R284, the length before the counts. -/
theorem outboundRefusesShortOrLargeRequests : Obligations.OutboundRefusesShortOrLargeRequests := by
  intro s total hlow hcap htag
  exact ⟨fun hshort => execRlyOut_short s total hlow hshort htag,
    fun hlong hn hm => execRlyOut_refused s total hlong hcap htag hn hm⟩

/-! ### `RLY.IN` (R290, R291) -/

/-- Settles O41: the length test and the test of the cycle and the tag come first. -/
theorem inboundPassesOtherFrames : Obligations.InboundPassesOtherFrames := by
  intro s total
  refine ⟨fun hshort => ⟨_, exec_short s (.inr rfl) hshort, rfl⟩, exec_past s (.inr rfl), ?pass⟩
  case pass => exact fun hlow hcap hpass => ⟨_, execRlyIn_pass s total hlow hcap hpass, rfl⟩

/-- Settles O42: a failed frame empties the set of frames and replays; the counts are not looked at. -/
theorem inboundCrcFailureReplays : Obligations.InboundCrcFailureReplays := by
  intro s total hlow hcap hact htag hfail
  have hexec := execRlyIn_crcFailure s total hlow hcap hact htag (frameIntact_eq_false hfail)
  exact ⟨_, hexec, replay_holds _ 3#32, replay_sameOutside _ 3#32, rfl⟩

/-- Settles O43: the frame goes to the slot that the count names, and the replay reads a store the frame does not touch. -/
theorem inboundStoresAndReplays : Obligations.InboundStoresAndReplays := by
  intro s total hcnt hlen hcap hact htag hcrc hn hm hmore
  have hrange : s.rly.inRange = true := (Relay.inRange_iff _).2 ⟨by omega, hn, hm, by omega⟩
  have hframe : (s.fb.bytes 0 total.toNat).length = total.toNat := Memory.bytes_length _ _ _
  have hslot := store_slot s.rly (s.fb.bytes 0 total.toNat) hcnt
  have hexec := execRlyIn_store s total hlen.le hcap hact htag (frameIntact_eq_true hlen hcrc) hrange hmore
  rw [store_frame s.rly _ hcnt] at hexec
  refine ⟨_, hexec, replay_holds _ 2#32, replay_sameOutside _ 2#32, ?length, ?bytes, ?others, rfl⟩
  case length =>
    calc ((s.rly.store (s.fb.bytes 0 total.toNat)).slot[s.rly.cnt]).len.toNat
        = (s.rly.slot[s.rly.cnt].put (s.fb.bytes 0 total.toNat)).len.toNat := by rw [hslot]
      _ = total.toNat := (put_len_toNat _ (hframe.trans_le hcap)).trans hframe
  case bytes =>
    have hput := put_holds s.rly.slot[s.rly.cnt] (s.fb.bytes 0 total.toNat)
    rw [← hslot] at hput
    exact hput
  case others => exact fun k hk hne => store_slot_other s.rly _ hcnt hk hne

/-- Settles O44: the frames averaged are those of the slots and then the one in the buffer. -/
theorem inboundForwardsTheAveragedFrame : Obligations.InboundForwardsTheAveragedFrame := by
  intro s total av hlen hcap hact htag hcrc hn hn10 hm hlast hav
  have hrange : s.rly.inRange = true := (Relay.inRange_iff _).2 ⟨hn, hn10, hm, by omega⟩
  have hintact := frameIntact_eq_true hlen hcrc
  refine ⟨?undefined, ?defined⟩
  case undefined =>
    intro hnone
    exact execRlyIn_undefined s total hlen.le hcap hact htag hintact hrange hlast (hav.trans hnone)
  case defined =>
    intro f hsome
    have hexec := execRlyIn_forward s total hlen.le hcap hact htag hintact hrange hlast (hav.trans hsome)
    rw [store_frame s.rly _ (by omega)] at hexec
    exact ⟨_, hexec, Memory.holds_writeBytes _ _ _, Memory.sameOutside_writeBytes _ _ _ rfl, rfl⟩

/-! ### `RLY.RESET` (R292) -/

/-- Settles O45: the whole next state is the one the rule writes out. -/
theorem relayResetAbandonsTheCycle : Obligations.RelayResetAbandonsTheCycle := fun _ => rfl

end Sys2Proof.Proofs.RelayCycle
end

section
/-! SUPPORT. The averaging engine (R293 to R302): the mean of a group of samples, which frames have a view and which agree, the
re-serialised frame field by field, and the three statements about them. -/

namespace Sys2Proof.Proofs.Averaging

open Sys2Proof Sys2Proof.Machine Sys2Proof.Proofs.CrcUnit Sys2Proof.Proofs.ScanParser

/-! ### The mean of the valid distances (R295) -/

/-- A truncated mean lies between the bounds of its numbers. -/
theorem tdiv_sum_between {xs : List Int} {lo hi : Int} (hne : xs ≠ []) (hlo : ∀ x ∈ xs, lo ≤ x) (hhi : ∀ x ∈ xs, x ≤ hi) :
    lo ≤ Int.tdiv xs.sum xs.length ∧ Int.tdiv xs.sum xs.length ≤ hi := by
  have hpos : 0 < (xs.length : Int) := Int.natCast_pos.2 (List.length_pos_iff.2 hne)
  have hsum_lo : lo * xs.length ≤ xs.sum := by
    have := List.card_nsmul_le_sum xs lo hlo
    rwa [nsmul_eq_mul, mul_comm] at this
  have hsum_hi : xs.sum ≤ hi * xs.length := by
    have := List.sum_le_card_nsmul xs hi hhi
    rwa [nsmul_eq_mul, mul_comm] at this
  constructor
  · calc lo = Int.tdiv (lo * xs.length) xs.length := (Int.mul_tdiv_cancel _ hpos.ne').symm
      _ ≤ Int.tdiv xs.sum xs.length := Int.tdiv_le_tdiv hpos hsum_lo
  · calc Int.tdiv xs.sum xs.length ≤ Int.tdiv (hi * xs.length) xs.length := Int.tdiv_le_tdiv hpos hsum_hi
      _ = hi := Int.mul_tdiv_cancel _ hpos.ne'

/-- The distances that are no sentinel (R295). -/
def validDistances (d : List Word) : List Word := d.filter fun w => w != 0x80000000#32 && w != 0x7FFFFFFF#32

theorem mem_validDistances {d : List Word} {w : Word} :
    w ∈ validDistances d ↔ w ∈ d ∧ w ≠ 0x80000000#32 ∧ w ≠ 0x7FFFFFFF#32 := by
  simp [validDistances]

theorem validDistances_eq_nil {d : List Word} :
    validDistances d = [] ↔ ∀ w ∈ d, w = 0x80000000#32 ∨ w = 0x7FFFFFFF#32 := by
  simp only [validDistances, List.filter_eq_nil_iff, Bool.and_eq_true, bne_iff_ne, not_and_or, not_not]

/-- A sample is valid, or one of the two sentinels. -/
theorem length_validDistances (d : List Word) :
    (validDistances d).length + d.count 0x80000000#32 + d.count 0x7FFFFFFF#32 = d.length := by
  induction d with
  | nil => rfl
  | cons w d ih =>
    simp only [validDistances, List.filter_cons, List.count_cons, List.length_cons] at ih ⊢
    by_cases hecho : w = 0x80000000#32
    case pos => subst hecho; simp; omega
    by_cases hnoise : w = 0x7FFFFFFF#32
    case pos => subst hnoise; simp; omega
    simp [hecho, hnoise]
    omega

/-- With a valid sample the distance is the truncated mean of the valid ones (R295). -/
theorem avgDist_of_valid {d : List Word} (h : validDistances d ≠ []) :
    avgDist d = (BitVec.ofInt 32 (Int.tdiv ((validDistances d).map BitVec.toInt).sum (validDistances d).length),
      (validDistances d).length) :=
  if_neg (mt List.length_eq_zero_iff.1 h)

/-- Without one it is the sentinel of the majority, no-echo on a tie (R295). -/
theorem avgDist_of_sentinels {d : List Word} (h : validDistances d = []) :
    avgDist d = (if d.count 0x7FFFFFFF#32 ≤ d.count 0x80000000#32 then 0x80000000#32 else 0x7FFFFFFF#32, 0) :=
  if_pos (List.length_eq_zero_iff.2 h)

/-- The mean of valid samples, read with its sign, lies between the smallest and the largest of them. -/
theorem avgDist_between {d : List Word} (h : validDistances d ≠ []) :
    ∃ lo ∈ validDistances d, ∃ hi ∈ validDistances d,
      lo.toInt ≤ (avgDist d).1.toInt ∧ (avgDist d).1.toInt ≤ hi.toInt := by
  have hnonempty : (validDistances d).toFinset.Nonempty := List.toFinset_nonempty_iff _ |>.2 h
  obtain ⟨lo, hlo, hmin⟩ := Finset.exists_min_image _ BitVec.toInt hnonempty
  obtain ⟨hi, hhi, hmax⟩ := Finset.exists_max_image _ BitVec.toInt hnonempty
  simp only [List.mem_toFinset] at hlo hhi hmin hmax
  obtain ⟨hle, hge⟩ := tdiv_sum_between (xs := (validDistances d).map BitVec.toInt) (lo := lo.toInt) (hi := hi.toInt)
    (by simpa using h) (by simpa using hmin) (by simpa using hmax)
  rw [List.length_map] at hle hge
  have hword : (avgDist d).1.toInt =
      Int.tdiv ((validDistances d).map BitVec.toInt).sum (validDistances d).length := by
    rw [avgDist_of_valid h]
    exact BitVec.toInt_ofInt_eq_self (by decide) (lo.le_toInt.trans hle) (hge.trans_lt hi.toInt_lt)
  rw [hword]
  exact ⟨lo, hlo, hi, hhi, hle, hge⟩

/-- No word lies below the no-echo sentinel. -/
theorem ne_noEcho_of_le {x y : Word} (hx : x ≠ 0x80000000#32) (h : x.toInt ≤ y.toInt) : y ≠ 0x80000000#32 := by
  rintro rfl
  exact hx (BitVec.eq_of_toInt_eq (h.antisymm x.le_toInt))

/-- No word lies above the noise sentinel. -/
theorem ne_noise_of_le {x y : Word} (hx : x ≠ 0x7FFFFFFF#32) (h : y.toInt ≤ x.toInt) : y ≠ 0x7FFFFFFF#32 := by
  rintro rfl
  exact hx (BitVec.eq_of_toInt_eq (Int.le_antisymm (Int.le_of_lt_add_one x.toInt_lt) h))

/-- Settles O46: the mean lies between two valid samples, and there is no word below the one sentinel or above the other. -/
theorem averagedDistanceLiesBetweenSamples : Obligations.AveragedDistanceLiesBetweenSamples := by
  refine ⟨?mean, ?width, fun _ _ => rfl, fun d => ⟨?valid, ?sentinels⟩⟩
  case mean =>
    rintro d _ rfl hne
    exact avgDist_of_valid hne
  case width =>
    intro w nV
    exact ⟨rfl, fun hpos => congrArg u32 (if_neg hpos.ne'), rfl⟩
  case valid =>
    rintro ⟨w, hw, hvalid⟩
    have hne : validDistances d ≠ [] := List.ne_nil_of_mem (mem_validDistances.2 ⟨hw, hvalid⟩)
    obtain ⟨lo, hlo, hi, hhi, hle, hge⟩ := avgDist_between hne
    obtain ⟨hlo_mem, hlo_echo, hlo_noise⟩ := mem_validDistances.1 hlo
    obtain ⟨hhi_mem, hhi_echo, hhi_noise⟩ := mem_validDistances.1 hhi
    refine ⟨lo, hi, hlo_mem, hhi_mem, hlo_echo, hlo_noise, hhi_echo, hhi_noise, hle, hge, ne_noEcho_of_le hlo_echo hle,
      ne_noise_of_le hhi_noise hge, ?count⟩
    case count =>
      rw [avgDist_of_valid hne]
      exact length_validDistances d
  case sentinels => exact fun hall => avgDist_of_sentinels (validDistances_eq_nil.2 hall)

/-! ### Which frames have a view (R293) -/

/-- A word is a natural number, read with its sign, exactly if it holds it in its low 31 bits (R11). -/
theorem s32_eq_natCast {w : Word} {n : Nat} : s32 w = n ↔ w = BitVec.ofNat 32 n ∧ n < 2 ^ 31 := by
  constructor
  · intro h
    have hn : w.toNat = n := by rw [← s32_toNat (h ▸ Int.natCast_nonneg n), h, Int.toNat_natCast]
    have hlt := w.toInt_lt
    rw [← s32, h] at hlt
    exact ⟨by rw [← hn, BitVec.ofNat_toNat, BitVec.setWidth_eq], by omega⟩
  · rintro ⟨hw, hn⟩
    exact s32_of_eq_ofNat hw hn

/-- A scan parameter is its word of the payload, or 0 where it is missing (R104). -/
theorem scanParams_word (rd : Nat → Word) (nP : Nat) {k : Nat} (hk : k < 10) :
    (scanParams rd nP)[k] = if k < nP then rd (12 + 4 * k) else 0#32 := by
  simp [hk]

/-- A parameter block gives 1 to 4 echoes by that count in its fifth word, or one echo by 0 there (R105). -/
theorem echoCount_iff {par : Vector Word 10} {nE : Nat} :
    echoCount par = nE ∧ 1 ≤ nE ∧ nE ≤ 4 ↔
      par[4] = 0#32 ∧ nE = 1 ∨ par[4] = BitVec.ofNat 32 nE ∧ 1 ≤ nE ∧ nE ≤ 4 := by
  constructor
  · rintro ⟨hcount, hpos, hle⟩
    by_cases hzero : par[4] = 0#32
    · rw [echoCount, if_pos hzero] at hcount
      exact .inl ⟨hzero, by omega⟩
    · rw [echoCount, if_neg hzero] at hcount
      exact .inr ⟨(s32_eq_natCast.1 hcount).1, hpos, hle⟩
  · intro h
    exact ⟨(echoCount_eq h).1, by omega⟩

/-- The data-content codes with samples, and their bytes per sample (R260). -/
theorem bytesPerSample_eq {dc : Word} (h : dc = 4#32 ∨ dc = 8#32 ∨ dc = 7#32) :
    bytesPerSample dc = if dc = 4#32 then 4 else 8 := by
  obtain rfl | rfl | rfl := h <;> rfl

theorem bytesPerSample_ne_zero {dc : Word} : bytesPerSample dc ≠ 0 ↔ dc = 4#32 ∨ dc = 8#32 ∨ dc = 7#32 := by
  constructor
  · intro h
    unfold bytesPerSample at h
    split at h
    · exact .inl ‹_›
    · split at h
      · exact .inr ‹_›
      · exact absurd rfl h
  · rintro (rfl | rfl | rfl) <;> decide

/-- The bytes per sample of a frame that has a view. -/
theorem bps_eq {f : List Byte} {v : ScanView} (h : scanView f = some v) : v.bps = if v.dc = 4#32 then 4 else 8 := by
  obtain ⟨_, _, _, _, _, _, _, _, _, _, hbps, _⟩ := scanView_some h
  exact bytesPerSample_eq (bytesPerSample_ne_zero.1 hbps)

/-- R293 in the words at the offsets of the frame. -/
theorem scanView_iff (f : List Byte) (v : ScanView) : scanView f = some v ↔
    v.frame = f ∧ 20 ≤ f.length ∧ f.length = 12 + (beAt f 4).toNat ∧
    beAt f 8 = BitVec.ofNat 32 v.nP ∧ v.nP < 2 ^ 31 ∧ 12 + 4 * v.nP + 4 ≤ f.length - 4 ∧
    ((if 4 < v.nP then beAt f 28 else 0#32) = 0#32 ∧ v.nE = 1 ∨
      (if 4 < v.nP then beAt f 28 else 0#32) = BitVec.ofNat 32 v.nE ∧ 1 ≤ v.nE ∧ v.nE ≤ 4) ∧
    beAt f (12 + 4 * v.nP) = BitVec.ofNat 32 v.nPts ∧ v.nPts ≤ 4000 ∧
    v.dc = (if 8 < v.nP then beAt f 44 else 0#32) ∧ (v.dc = 4#32 ∨ v.dc = 8#32 ∨ v.dc = 7#32) ∧
    16 + 4 * v.nP + v.nPts * v.nE * (if v.dc = 4#32 then 4 else 8) = f.length - 4 := by
  have hechoes := scanParams_word (beAt f) v.nP (k := 4) (by decide)
  have hcontent := scanParams_word (beAt f) v.nP (k := 8) (by decide)
  have hdata : v.offData = 16 + 4 * v.nP := by rw [ScanView.offData, ScanView.offPts]; omega
  rw [← hechoes, ← hcontent, ← echoCount_iff]
  constructor
  · intro h
    have hbytes := bps_eq h
    obtain ⟨hframe, h20, hlen, hP, hPts, hPtsle, hE, hEpos, hEle, hdc, hbps, hend⟩ := scanView_some h
    obtain ⟨hPword, hPlt⟩ := s32_eq_natCast.1 hP
    rw [hdata, hbytes] at hend
    exact ⟨hframe, h20, hlen, hPword, hPlt, by omega, ⟨hE, hEpos, hEle⟩, (s32_eq_natCast.1 hPts).1, hPtsle, hdc,
      bytesPerSample_ne_zero.1 hbps, hend⟩
  · rintro ⟨hframe, h20, hlen, hPword, hPlt, -, ⟨hE, hEpos, hEle⟩, hPts, hPtsle, hdc, hcode, hend⟩
    refine scanView_eq hframe h20 hlen (s32_eq_natCast.2 ⟨hPword, hPlt⟩) (s32_eq_natCast.2 ⟨hPts, by omega⟩) hPtsle hE
      hEpos hEle hdc (bytesPerSample_ne_zero.2 hcode) ?_
    rw [hdata, ScanView.bps, bytesPerSample_eq hcode, hend]

/-- A sample is the one or two words at its offset (R293). -/
theorem sample_eq {f : List Byte} {v : ScanView} (h : scanView f = some v) (p e : Nat) {o : Nat}
    (ho : o = 16 + 4 * v.nP + (p * v.nE + e) * (if v.dc = 4#32 then 4 else 8)) :
    v.sample p e = (beAt f o, if v.dc = 4#32 then 0#32 else beAt f (o + 4)) := by
  have hframe : v.frame = f := (scanView_some h).1
  have hoff : v.offData + (p * v.nE + e) * v.bps = o := by
    rw [ho, bps_eq h, ScanView.offData, ScanView.offPts]
    omega
  simp only [ScanView.sample, hoff, hframe]
  rw [bps_eq h]
  by_cases hcode : v.dc = 4#32 <;> simp [hcode]

/-- The word at an offset is the four bytes there, in network order (R12). -/
theorem be32_beAt {f : List Byte} {o : Nat} (h : o + 4 ≤ f.length) : be32 (beAt f o) = (f.drop o).take 4 := by
  have hword : beAt f o = beAt (f.drop o) 0 := (beAt_drop f 0 o).symm
  have hlen : 4 ≤ (f.drop o).length := by rw [List.length_drop]; omega
  rw [hword]
  match f.drop o, hlen with
  | a :: b :: c :: d :: _, _ => exact be32_wordOf a b c d

/-! ### Where `Average` is defined (R294) -/

/-- The views of a list of frames, one for each. -/
theorem mapM_scanView_eq_some {frames : List (List Byte)} {views : List ScanView} :
    frames.mapM scanView = some views ↔ frames.map scanView = views.map some := by
  induction frames generalizing views with
  | nil => cases views <;> simp
  | cons f frames ih =>
    cases views with
    | nil => simp [Option.bind_eq_some_iff]
    | cons v views => simp [← ih, Option.bind_eq_some_iff]

theorem isSome_mapM_scanView {frames : List (List Byte)} :
    (frames.mapM scanView).isSome ↔ ∀ f ∈ frames, (scanView f).isSome := by
  induction frames with
  | nil => simp
  | cons f frames ih =>
    rw [List.forall_mem_cons, ← ih, List.mapM_cons]
    cases scanView f <;> cases frames.mapM scanView <;> simp

/-- The views are those of the frames. -/
theorem mem_views {frames : List (List Byte)} {views : List ScanView} (h : frames.mapM scanView = some views)
    (v : ScanView) : v ∈ views ↔ ∃ f ∈ frames, scanView f = some v := by
  have hmem : some v ∈ frames.map scanView ↔ some v ∈ views.map some := by rw [mapM_scanView_eq_some.1 h]
  simpa using hmem.symm

theorem all_agrees_iff {v : ScanView} {rest : List ScanView} :
    rest.all v.agrees = true ↔ ∀ w ∈ rest, v.nP = w.nP ∧ v.nE = w.nE ∧ v.dc = w.dc ∧ v.nPts = w.nPts := by
  simp [ScanView.agrees]

/-- `Average` is defined where the frames have views and the first of them agrees with the others. -/
theorem isSome_average_iff {frames : List (List Byte)} {m : Nat} {pw : Bool} :
    (average frames m pw).isSome ↔
      ∃ v rest, frames.mapM scanView = some (v :: rest) ∧ rest.all v.agrees = true := by
  constructor
  · intro h
    obtain ⟨f, hf⟩ := Option.isSome_iff_exists.1 h
    obtain ⟨v, rest, hviews, hagree, _⟩ := average_some hf
    exact ⟨v, rest, hviews, hagree⟩
  · rintro ⟨v, rest, hviews, hagree⟩
    rw [average_eq m pw hviews hagree]
    rfl

/-- Settles O48: a frame's view is read off the tests of R293, and views that agree with the first agree with each other. -/
theorem averageIsDefinedOnlyOnCompatibleFrames : Obligations.AverageIsDefinedOnlyOnCompatibleFrames := by
  refine ⟨scanView_iff, fun f v p e o h ho => sample_eq h p e ho, fun f o h => be32_beAt h, ?domain⟩
  intro frames m pw hne
  rw [isSome_average_iff]
  constructor
  case mp =>
    rintro ⟨v, rest, hviews, hagree⟩
    have hfirst : ∀ w ∈ v :: rest, v.nP = w.nP ∧ v.nE = w.nE ∧ v.dc = w.dc ∧ v.nPts = w.nPts :=
      List.forall_mem_cons.2 ⟨⟨rfl, rfl, rfl, rfl⟩, all_agrees_iff.1 hagree⟩
    refine ⟨isSome_mapM_scanView.1 (by rw [hviews]; rfl), ?_⟩
    intro f hf g hg w u hw hu
    obtain ⟨hP, hE, hdc, hPts⟩ := hfirst w ((mem_views hviews w).2 ⟨f, hf, hw⟩)
    obtain ⟨hP', hE', hdc', hPts'⟩ := hfirst u ((mem_views hviews u).2 ⟨g, hg, hu⟩)
    exact ⟨hP.symm.trans hP', hE.symm.trans hE', hdc.symm.trans hdc', hPts.symm.trans hPts'⟩
  case mpr =>
    rintro ⟨hsome, hagree⟩
    obtain ⟨views, hviews⟩ := Option.isSome_iff_exists.1 (isSome_mapM_scanView.2 hsome)
    cases views with
    | nil =>
      have hlen := congrArg List.length (mapM_scanView_eq_some.1 hviews)
      exact absurd (List.length_eq_zero_iff.1 (by simpa using hlen)) hne
    | cons v rest =>
      refine ⟨v, rest, hviews, all_agrees_iff.2 fun w hw => ?_⟩
      obtain ⟨f, hf, hv⟩ := (mem_views hviews v).1 List.mem_cons_self
      obtain ⟨g, hg, hw'⟩ := (mem_views hviews w).1 (List.mem_cons_of_mem _ hw)
      exact hagree f hf g hg v w hv hw'

/-! ### The two stages (R297 to R300) -/

/-- A group of a table of points is the table of the group's points, fewer at the end (R298). -/
theorem pointGroup_map_range (row : Nat → List Sample) (n m g : Nat) :
    pointGroup ((List.range n).map row) m g = (List.range' (g * m) (min m (n - g * m))).map row := by
  have htake : (List.range' (g * m) (n - g * m)).take m = List.range' (g * m) (min m (n - g * m)) := by
    rcases Nat.le_total m (n - g * m) with h | h
    · rw [List.take_range'_of_length_ge h, Nat.min_eq_left h]
    · rw [List.take_range'_of_length_le h, Nat.min_eq_right h]
  rw [pointGroup, ← List.map_drop, ← List.map_take, List.range_eq_range', List.drop_range', Nat.zero_add, Nat.mul_one, htake]

/-- An entry of a row of echoes. -/
theorem getD_map_range (f : Nat → Sample) {n e : Nat} (he : e < n) (x : Sample) : ((List.range n).map f).getD e x = f e := by
  simp [List.getD, List.getElem?_range he]

/-- Echo `e` of group `g` averages the group's points, each averaged over the scans before (R297 to R300). -/
theorem stages_getD (views : List ScanView) {nPts nE nOut m g e : Nat} (pw : Bool) (hg : g < nOut) (he : e < nE)
    (x : Sample) :
    ((stageB (stageA views nPts nE pw) m nOut nE pw).getD g []).getD e x =
      avgSample ((List.range' (g * m) (min m (nPts - g * m))).map fun p =>
        avgSample (views.map fun w => w.sample p e) pw) pw := by
  have hrow : (stageB (stageA views nPts nE pw) m nOut nE pw).getD g [] = (List.range nE).map fun e =>
      avgSample ((pointGroup (stageA views nPts nE pw) m g).map fun row => row.getD e (0#32, 0#32)) pw := by
    simp [stageB, List.getD, List.getElem?_range hg]
  rw [hrow, getD_map_range _ he, stageA, pointGroup_map_range, List.map_map]
  congr 1
  exact List.map_congr_left fun p _ => getD_map_range _ he _

/-- Samples without pulse widths average to one without (R296). -/
theorem avgSample_snd_eq_zero {xs : List Sample} (pw : Bool) (h : ∀ x ∈ xs, x.2 = 0#32) : (avgSample xs pw).2 = 0#32 := by
  have hsum : ((xs.map Prod.snd).map s32).sum = 0 := by
    refine List.sum_eq_zero fun i hi => ?_
    simp only [List.mem_map] at hi
    obtain ⟨_, ⟨x, hx, rfl⟩, rfl⟩ := hi
    rw [h x hx]
    rfl
  have hzero (n : Int) : tdiv 0 n = 0 := Int.zero_tdiv n
  simp only [avgSample, avgPw, hsum, hzero, ite_self]
  rfl

/-! ### The re-serialised frame, field by field (R301) -/

/-- The corrected Length of the output frame. -/
def outputLength (v : ScanView) (nOut : Nat) : Nat := (beAt v.frame 4).toNat - (v.nPts - nOut) * v.nE * v.bps

/-- The CRC of the output frame. -/
def outputCrc (v : ScanView) (rows : List (List Sample)) (nOut : Nat) : Word :=
  crc32 (v.frame.take 4 ++ be32 (BitVec.ofNat 32 (outputLength v nOut)) ++ (v.frame.drop 8).take (v.offPts - 8)
    ++ be32 (BitVec.ofNat 32 nOut) ++ rows.flatMap fun row => row.flatMap (sampleBytes v.bps))

/-- Tag, Length, parameter block, point count, samples and CRC. -/
theorem reserialise_eq (v : ScanView) (rows : List (List Sample)) (nOut : Nat) :
    reserialise v rows nOut = v.frame.take 4 ++ (be32 (BitVec.ofNat 32 (outputLength v nOut)) ++
      ((v.frame.drop 8).take (v.offPts - 8) ++ (be32 (BitVec.ofNat 32 nOut) ++
        (rows.flatten.flatMap (sampleBytes v.bps) ++ be32 (outputCrc v rows nOut))))) := by
  have hrows : rows.flatten.flatMap (sampleBytes v.bps) = rows.flatMap fun row => row.flatMap (sampleBytes v.bps) := by
    rw [← List.flatMap_id, List.flatMap_assoc]
    rfl
  simp only [reserialise, stamped, outputCrc, outputLength, hrows, List.append_assoc]

/-- The trailer is the CRC of the bytes before it, in the bit-serial form (R94, R301). -/
theorem reserialise_trailer (v : ScanView) (rows : List (List Sample)) (nOut : Nat) {f : List Byte}
    (hf : f = reserialise v rows nOut) : crc32Msb (f.take (f.length - 4)) = beAt f (f.length - 4) := by
  obtain ⟨body, hbody⟩ : ∃ body, f = stamped body := ⟨_, hf⟩
  have hlen : f.length - 4 = body.length := by rw [hbody, stamped_length, Nat.add_sub_cancel]
  have htake : f.take body.length = body := by rw [hbody, stamped, List.take_left]
  have hword : beAt f body.length = crc32 body := by
    have := beAt_append_be32 body (crc32 body) []
    rwa [List.append_nil, ← stamped, ← hbody] at this
  rw [hlen, htake, hword, crc32_eq_crc32Msb]

section Output

variable {f : List Byte} {v : ScanView} (h : scanView f = some v) (rows : List (List Sample)) (nOut : Nat)
include h

/-- The parameter block ends inside the frame, before its point count. -/
theorem offPts_le : v.offPts + 8 ≤ v.frame.length := by
  obtain ⟨rfl, h20, _, _, _, _, _, _, _, _, _, hend⟩ := scanView_some h
  rw [ScanView.offData] at hend
  omega

theorem tag_length : (v.frame.take 4).length = 4 := by
  have := offPts_le h
  rw [List.length_take]
  omega

theorem params_length : ((v.frame.drop 8).take (v.offPts - 8)).length = v.offPts - 8 := by
  have := offPts_le h
  rw [List.length_take, List.length_drop]
  omega

theorem reserialise_take_tag : (reserialise v rows nOut).take 4 = v.frame.take 4 := by
  rw [reserialise_eq]
  exact List.take_left' (tag_length h)

theorem beAt_reserialise_length : beAt (reserialise v rows nOut) 4 = BitVec.ofNat 32 (outputLength v nOut) := by
  have hword := beAt_append_be32 (v.frame.take 4) (BitVec.ofNat 32 (outputLength v nOut))
  rw [tag_length h] at hword
  rw [reserialise_eq]
  exact hword _

/-- The part of the frame behind the Length field. -/
theorem beAt_reserialise_add_eight (k : Nat) :
    beAt (reserialise v rows nOut) (8 + k) = beAt ((v.frame.drop 8).take (v.offPts - 8) ++
      (be32 (BitVec.ofNat 32 nOut) ++ (rows.flatten.flatMap (sampleBytes v.bps) ++ be32 (outputCrc v rows nOut)))) k := by
  have hoff : 8 + k = (v.frame.take 4).length + ((be32 (BitVec.ofNat 32 (outputLength v nOut))).length + k) := by
    rw [tag_length h, be32_length]
    omega
  rw [reserialise_eq, hoff, beAt_append_right, beAt_append_right]

/-- The parameter words are those of the first frame. -/
theorem beAt_reserialise_params {off : Nat} (hlow : 8 ≤ off) (hhigh : off + 4 ≤ v.offPts) :
    beAt (reserialise v rows nOut) off = beAt v.frame off := by
  obtain ⟨k, rfl⟩ := Nat.exists_eq_add_of_le hlow
  have hfit : k + 4 ≤ v.offPts - 8 := by omega
  rw [beAt_reserialise_add_eight h, beAt_append_left _ _ (by rw [params_length h]; exact hfit), beAt_take _ hfit, beAt_drop]

theorem beAt_reserialise_points : beAt (reserialise v rows nOut) v.offPts = BitVec.ofNat 32 nOut := by
  have hoff : v.offPts = 8 + ((v.frame.drop 8).take (v.offPts - 8)).length := by
    rw [params_length h, ScanView.offPts]
    omega
  conv => lhs; rw [hoff]
  rw [beAt_reserialise_add_eight h, beAt_append_be32]

/-- The part of the frame from the samples on. -/
theorem beAt_reserialise_data (k : Nat) : beAt (reserialise v rows nOut) (v.offData + k) =
    beAt (rows.flatten.flatMap (sampleBytes v.bps) ++ be32 (outputCrc v rows nOut)) k := by
  have hoff : v.offData + k =
      8 + (((v.frame.drop 8).take (v.offPts - 8)).length + ((be32 (BitVec.ofNat 32 nOut)).length + k)) := by
    rw [params_length h, be32_length, ScanView.offData, ScanView.offPts]
    omega
  rw [hoff, beAt_reserialise_add_eight h, beAt_append_right, beAt_append_right]

/-- The view of the output frame: the first frame's, with the points that are left (R301). -/
theorem scanView_reserialise (hrows : rows.length = nOut) (hrow : ∀ row ∈ rows, row.length = v.nE)
    (hle : nOut ≤ v.nPts) :
    scanView (reserialise v rows nOut) = some { v with frame := reserialise v rows nOut, nPts := nOut } := by
  have hlen := reserialise_length h rows nOut hrows hrow
  have hlength := beAt_reserialise_length h rows nOut
  have hpoints := beAt_reserialise_points h rows nOut
  have hparam {off : Nat} (hlow : 8 ≤ off) (hhigh : off + 4 ≤ v.offPts) :=
    beAt_reserialise_params h rows nOut hlow hhigh
  obtain ⟨rfl, h20, hL, hP, _, hPtsle, hE, hEpos, hEle, hdc, hbps, hend⟩ := scanView_some h
  have hpts : v.offPts = 12 + 4 * v.nP := rfl
  have hdata : v.offData = v.offPts + 4 := rfl
  have hblock : scanParams (beAt (reserialise v rows nOut)) v.nP = scanParams (beAt v.frame) v.nP := by
    refine Vector.ext fun k hk => ?_
    rw [scanParams_word _ _ hk, scanParams_word _ _ hk]
    split
    · exact hparam (by omega) (by omega)
    · rfl
  refine scanView_eq rfl (by omega) ?length ?params ?points (hle.trans hPtsle) ?echoes hEpos hEle ?content hbps ?fit
  case length =>
    have hsamples : (v.nPts - nOut) * v.nE * v.bps = v.nPts * v.nE * v.bps - nOut * v.nE * v.bps := by
      rw [Nat.sub_mul, Nat.sub_mul]
    have hsmaller : nOut * v.nE * v.bps ≤ v.nPts * v.nE * v.bps :=
      Nat.mul_le_mul_right _ (Nat.mul_le_mul_right _ hle)
    have hword := (beAt v.frame 4).isLt
    rw [hlength, outputLength, BitVec.toNat_ofNat, Nat.mod_eq_of_lt (by omega), hlen, hsamples]
    omega
  case params => rw [hparam (Nat.le_refl 8) (by omega), hP]
  case points =>
    have hlt : nOut < 2 ^ 31 := by omega
    exact s32_eq_natCast.2 ⟨hpoints, hlt⟩
  case echoes => rw [hblock, hE]
  case content => simp only [hblock, hdc]
  case fit =>
    rw [hlen, Nat.add_sub_cancel]
    rfl

/-- A sample of the output frame is the entry of the averaged table; without pulse widths its second word is 0. -/
theorem sample_reserialise (hrows : rows.length = nOut) (hrow : ∀ row ∈ rows, row.length = v.nE) {g e : Nat}
    (hg : g < nOut) (he : e < v.nE) {x : Sample} (hx : (rows.getD g []).getD e (0#32, 0#32) = x)
    (hwidth : v.bps ≠ 8 → x.2 = 0#32) :
    ({ v with frame := reserialise v rows nOut, nPts := nOut } : ScanView).sample g e = x := by
  have hlen : rows.flatten.length = nOut * v.nE := by
    rw [List.length_flatten, List.map_congr_left hrow, List.map_const', List.sum_replicate, hrows, smul_eq_mul]
  have hk : g * v.nE + e < rows.flatten.length := by
    rw [hlen]
    exact sample_position hg he
  obtain ⟨hdist, hpw⟩ := beAt_samples (scanView_bps h) rows.flatten hk (be32 (outputCrc v rows nOut))
  rw [flatten_getD rows hrow _ (hrows ▸ hg) he, hx] at hdist hpw
  rw [← beAt_reserialise_data h] at hdist hpw
  refine Prod.ext hdist ?_
  by_cases h8 : v.bps = 8
  case pos => exact (if_pos h8).trans (hpw h8)
  case neg => exact (if_neg h8).trans (hwidth h8).symm

end Output

/-! ### `Average` as a whole (R302) -/

/-- The first view is that of the first frame, the one the output is built from (R301). -/
theorem exists_first_of_views {frames : List (List Byte)} {v : ScanView} {rest : List ScanView}
    (h : frames.mapM scanView = some (v :: rest)) : ∃ first others, frames = first :: others ∧ scanView first = some v := by
  rw [mapM_scanView_eq_some, List.map_cons] at h
  cases frames with
  | nil => cases h
  | cons first others => exact ⟨first, others, rfl, (List.cons.inj h).1⟩

/-- A frame of a data content without pulse widths has none (R293). -/
theorem sample_snd_eq_zero {v : ScanView} (h : v.bps ≠ 8) (p e : Nat) : (v.sample p e).2 = 0#32 := if_neg h

/-- Settles O47: the output frame is read back through its own view, and its samples are the entries of the two stages. -/
theorem averageIsTheTwoStages : Obligations.AverageIsTheTwoStages := by
  intro frames m pw v rest hm hviews hagree
  have hall : rest.all v.agrees = true := all_agrees_iff.2 fun w hw => by
    obtain ⟨hP, hE, hdc, hPts⟩ := hagree w hw
    exact ⟨hP.symm, hE.symm, hdc.symm, hPts.symm⟩
  obtain ⟨first, others, rfl, hv⟩ := exists_first_of_views hviews
  obtain ⟨hrows, hrow⟩ := stageB_shape (stageA (v :: rest) v.nPts v.nE pw) m (ceilDiv v.nPts m) v.nE pw
  have hle := ceilDiv_le (a := v.nPts) hm
  refine ⟨_, _, average_eq m pw hviews hall, scanView_reserialise hv _ _ hrows hrow hle, ?longest,
    reserialise_take_tag hv _ _, ?params, reserialise_trailer _ _ _ rfl, rfl, rfl, rfl, rfl, ?samples⟩
  case longest =>
    have hframe : v.frame = first := (scanView_some hv).1
    rw [hframe]
    exact average_length hm (average_eq m pw hviews hall)
  case params =>
    intro k hk
    refine beAt_reserialise_params hv _ _ (by omega) ?_
    rw [ScanView.offPts]
    omega
  case samples =>
    intro g e hg he
    refine sample_reserialise hv _ _ hrows hrow hg he (stages_getD _ pw hg he _) fun h8 => ?_
    refine avgSample_snd_eq_zero pw fun x hx => ?_
    obtain ⟨p, _, rfl⟩ := List.mem_map.1 hx
    refine avgSample_snd_eq_zero pw fun y hy => ?_
    obtain ⟨w, hw, rfl⟩ := List.mem_map.1 hy
    have hbps : w.bps = v.bps := by
      obtain rfl | hw := List.mem_cons.1 hw
      · rfl
      · obtain ⟨_, _, hdc, _⟩ := hagree w hw
        rw [ScanView.bps, ScanView.bps, hdc]
    exact sample_snd_eq_zero (hbps ▸ h8) p e

end Sys2Proof.Proofs.Averaging
end

section
/-! SUPPORT. The system family (spec/45_system.md) and the hardware reset input (R391): the next state of each, and the two
statements about them. -/

namespace Sys2Proof.Proofs.System

open Sys2Proof Sys2Proof.Machine

/-! ### Reset (R341, R390, R391) -/

/-- The reset of any state has the values of R37, as `State.reset` has: the two differ only in the free values, the parameters
and the pending requests, and R37 gives none of these. -/
theorem resetNow_atReset (s : State) : s.resetNow.AtReset := Invariant.resetLeavesTheStatedValues

/-- The response of `SYS.RESET` is the one that the reset already leaves. -/
theorem resetNow_succeed (s : State) : s.resetNow.succeed 0#32 0#32 = s.resetNow := rfl

/-- `SYS.RESET` is the reset of R390, whatever it interrupts (R341). -/
theorem exec_sysReset (s : State) : exec .sysReset s = .next s.resetNow := congrArg Host.Outcome.next (resetNow_succeed s)

/-- The reset input is taken from the port, and what it resets is the state that is left (R391). -/
theorem step_of_hwReset {s : State} {rest : List HostRequest} (hport : s.port = .hwReset :: rest) :
    step s = .next { s with port := rest }.resetNow :=
  Step.step_of_decode_error hport rfl

/-- Settles O2: both are the one reset, which gives the values of R37 and carries the parameters and the port over. -/
theorem sysResetAndResetInputGiveTheResetState : Obligations.SysResetAndResetInputGiveTheResetState := by
  intro s rest
  refine ⟨?operation, ?input⟩
  case operation =>
    exact ⟨s.resetNow, exec_sysReset s, resetNow_atReset s, s.resetNow_params, s.resetNow_port⟩
  case input =>
    exact ⟨_, step_of_hwReset rfl, resetNow_atReset _, State.resetNow_params _, State.resetNow_port _⟩

/-! ### `SYS.NOP`, `SYS.CFG`, `SYS.RDCFG` (R340, R342, R343) -/

/-- The no-op writes the response and nothing else (R340). -/
theorem exec_sysNop (s : State) : exec .sysNop s = .next (s.succeed 0#32 0#32) := rfl

/-- What is written to `CFG` and returned is the operand without its reserved bits (R23, R342). -/
theorem exec_sysCfg (v : Word) (s : State) :
    exec (.sysCfg v) s = .next ({ s with cfg := cfgMask v }.succeed (cfgMask v) 0#32) := rfl

/-- `CFG` is read without its reserved bits (R23, R343). -/
theorem exec_sysRdcfg (s : State) : exec .sysRdcfg s = .next (s.succeed (cfgMask s.cfg) 0#32) := rfl

/-- Settles O3: each of the three succeeds, and the mask of R23 is bit 0. -/
theorem systemOperationsResults : Obligations.SystemOperationsResults :=
  fun s v => ⟨exec_sysNop s, exec_sysCfg v s, exec_sysRdcfg s⟩

end Sys2Proof.Proofs.System
end

section
/-! SUPPORT. Which instructions answer a next state whatever the state is (R15, R359), and the statement about them. -/

namespace Sys2Proof.Proofs.Completion

open Sys2Proof Sys2Proof.Machine

/-! ### Results that are a next state -/

/-- The instruction answers a next state: no refusal (R359) and no fault (log entry 13). A failure of R14 is a next state too. -/
def Completes (r : Result) : Prop := ∃ t, r = .next t

theorem Completes.next (t : State) : Completes (.next t) := ⟨t, rfl⟩

/-- A test of the model: the operation completes if both branches do. -/
theorem Completes.ite {c : Prop} [Decidable c] {a b : Result} (ha : Completes a) (hb : Completes b) :
    Completes (if c then a else b) := by
  split
  · exact ha
  · exact hb

/-- The shape of an operation with one test: a result, or a failure that is itself a next state (R14). -/
theorem Completes.ite_next {c : Prop} [Decidable c] (t t' : State) : Completes (if c then .next t else .next t') :=
  .ite (.next t) (.next t')

/-! ### The operations with more than one test (R209, R212) -/

theorem cmdTxdone_completes (w : Word) (s : State) : Completes (execCmdTxdone w s) :=
  .ite (.next _) (.ite_next _ _)

theorem cmdRdout_completes (sel : Word) (s : State) : Completes (execCmdRdout sel s) :=
  .ite (.next _) (.ite (.next _) (.ite (.next _) (.ite_next _ _)))

/-! ### Every instruction -/

/-- Settles O58: the six operations are excluded, and every other completes at once or on either side of its tests. -/
theorem onlySixOperationsCanStop : Obligations.OnlySixOperationsCanStop := by
  intro i s hi
  change Completes (exec i s)
  cases i with
  | frmH2n total | frmN2h total | cmdRxdone total | scnParse total | rlyOut total | rlyIn total =>
    exact absurd (hi total) (by simp)
  | sysNop | sysReset | sysCfg | sysRdcfg | crcReset | crcFinal | bufWr => exact .next _
  | cmdErrmap | scnClear | scnInfo | rlyReset => exact .next _
  | cmdGver | cmdGprm | cmdSprm | cmdGpin | cmdScan | cmdGscn | cmdGsc2 => exact .next _
  | tagGver | tagGprm | tagSprm | tagGpin | tagScan | tagGscn | tagGsc2 | tagErr => exact .next _
  | crcUpdate | crcCompute | bufRd | frmGet32 | frmPut32 | frmStamp | frmVerify | scnGetp | scnGetd | scnGetw =>
    exact .ite_next _ _
  | cmdTxdone w => exact cmdTxdone_completes w s
  | cmdRdout sel => exact cmdRdout_completes sel s

end Sys2Proof.Proofs.Completion
end
